-- ==== Sys2Proof/Word.lean ====
section
/-! DEFINITION. The word types of the block (spec/00_scope.md R11, R13). All quantities are unsigned and bit 0 is the
least significant bit. -/

namespace Sys2Proof

/-- A byte of a stream, of the digest buffer or of the rule schedule. -/
abbrev Byte := BitVec 8

/-- A 32-bit word of the `CMD`, `RSP`, `KRQ` or `DRW` port (R11, R51). -/
abbrev Word := BitVec 32

/-- A 20-bit immediate, and the width of the 20-bit registers (R11, R92). -/
abbrev Imm := BitVec 20

end Sys2Proof
end

