-- ==== Sys2Proof/Syntax.lean ====
section
/-! DEFINITION. The 25 commands, one constructor per row of spec/opcode_table.json, with the operand fields of their
formats (spec/30_encoding.md R91 to R94). An operand field has its full width here; the three restrictions the spec
puts on operand values (R95) are checked in `WellFormed`. -/

namespace Sys2Proof

/-- A command with its operands. -/
inductive Instr where
  /-- `NOP` (R205). -/
  | nop
  /-- `SRST` (R206). -/
  | srst
  /-- `SETN n` (R131). -/
  | setn (n : Imm)
  /-- `RSCLR` (R132). -/
  | rsclr
  /-- `RSPUSH r` (R133); legal only with `imm ≤ 255`. -/
  | rspush (imm : Imm)
  /-- `SETC1 v` (R134). -/
  | setc1 (v : Imm)
  /-- `SETC2 v` (R135). -/
  | setc2 (v : Imm)
  /-- `SETIPB v` (R136). -/
  | setipb (v : Imm)
  /-- `SETWARM v` (R137). -/
  | setwarm (v : Imm)
  /-- `SETMODE m` (R138); legal only with `imm ≤ 3`. -/
  | setmode (imm : Imm)
  /-- `SETXI slot, idx` (R139); legal only with `sel ≤ 7`. -/
  | setxi (sel : BitVec 4) (idx : Imm)
  /-- `SETDLEN v` (R141). -/
  | setdlen (v : Imm)
  /-- `LDDIG pos, val` (R142). -/
  | lddig (pos : Byte) (val : Byte)
  /-- `SEED` (R152). -/
  | seed
  /-- `SEEDRAW` (R154). -/
  | seedraw
  /-- `MIX` (R153). -/
  | mix
  /-- `WARMUP` (R177). -/
  | warmup
  /-- `GENB` (R178). -/
  | genb
  /-- `FILL len` (R179). -/
  | fill (len : Imm)
  /-- `XSTREAM` (R193). -/
  | xstream
  /-- `XSTREAMX` (R194). -/
  | xstreamx
  /-- `REVAL nb, rule` (R124). -/
  | reval (nb : BitVec 3) (rule : Byte)
  /-- `REVALC nb, rule` (R125). -/
  | revalc (nb : BitVec 3) (rule : Byte)
  /-- `RDREG num` (R208). -/
  | rdreg (num : Imm)
  /-- `RDCELL idx` (R209). -/
  | rdcell (idx : Imm)
deriving DecidableEq, Repr

/-- Why a word is an illegal command, one name per case of R98. The block itself reports every one of them as
`E_ILLEGAL` (R241). -/
inductive Illegal where
  /-- The opcode is none of the 25 (231 of the 256 values). -/
  | unassignedOpcode
  /-- A must-be-zero field of format Z, B or R is not zero. -/
  | mustBeZero
  /-- A format-I command other than `SETXI` has `sel ≠ 0`. -/
  | selNotZero
  /-- `RSPUSH` with `imm > 255`. -/
  | ruleRange
  /-- `SETMODE` with `imm > 3`. -/
  | modeRange
  /-- `SETXI` with `sel > 7`. -/
  | slotRange
deriving DecidableEq, Repr

/-- One row of the opcode map (R96): a word `w` encodes the command if and only if `w` and `mask` is `pattern`. -/
structure OpcodeRow where
  mnemonic : String
  mask : Word
  pattern : Word
deriving DecidableEq, Repr

end Sys2Proof
end

