-- ==== Sys2Proof/WellFormed.lean ====
section
/-! DEFINITION. The restrictions on operand values that make an encoding legal (spec/30_encoding.md R95, R98). Every
other field may hold any value of its width. -/

namespace Sys2Proof

/-- The operands are such that the command's word is a legal encoding (R95: `RSPUSH` requires `imm ≤ 255`, `SETMODE`
`imm ≤ 3`; R92: `SETXI`'s slot is 0 to 7). -/
def Instr.wellFormed : Instr → Bool
  | .nop => true
  | .srst => true
  | .setn _ => true
  | .rsclr => true
  | .rspush imm => decide (imm.toNat ≤ 255)
  | .setc1 _ => true
  | .setc2 _ => true
  | .setipb _ => true
  | .setwarm _ => true
  | .setmode imm => decide (imm.toNat ≤ 3)
  | .setxi sel _ => decide (sel.toNat ≤ 7)
  | .setdlen _ => true
  | .lddig _ _ => true
  | .seed => true
  | .seedraw => true
  | .mix => true
  | .warmup => true
  | .genb => true
  | .fill _ => true
  | .xstream => true
  | .xstreamx => true
  | .reval _ _ => true
  | .revalc _ _ => true
  | .rdreg _ => true
  | .rdcell _ => true

end Sys2Proof
end

