-- ==== Sys2Proof/Decode.lean ====
section
/-! DEFINITION. The decoder, total on every 32-bit word and rejecting by name (spec/30_encoding.md R90 to R98), the
encoder written from the same formats, and the opcode map of R96 as a table. A command is one 32-bit word and no rule
serialises it into bytes (spec/20_memory.md R67), so the decoder reads the word. -/

namespace Sys2Proof

/-! ## The fields of a word -/

/-- Bits 31:24, the opcode in every format (R90). -/
def opField (w : Word) : Byte := w.extractLsb' 24 8

/-- Bits 23:20 of format I (R92). -/
def selField (w : Word) : BitVec 4 := w.extractLsb' 20 4

/-- Bits 19:0 of format I (R92). -/
def immField (w : Word) : Imm := w.extractLsb' 0 20

/-- Bits 23:0 of format Z, which must be 0 (R91). -/
def zeroFieldZ (w : Word) : BitVec 24 := w.extractLsb' 0 24

/-- Bits 23:16 of format B, which must be 0 (R93). -/
def zeroFieldB (w : Word) : Byte := w.extractLsb' 16 8

/-- Bits 15:8 of format B (R93). -/
def posField (w : Word) : Byte := w.extractLsb' 8 8

/-- Bits 7:0 of format B, `val` (R93), and of format R, `rule` (R94). -/
def lowByteField (w : Word) : Byte := w.extractLsb' 0 8

/-- Bits 23:11 of format R, which must be 0 (R94). -/
def zeroFieldR (w : Word) : BitVec 13 := w.extractLsb' 11 13

/-- Bits 10:8 of format R, the neighbourhood code (R94). -/
def nbField (w : Word) : BitVec 3 := w.extractLsb' 8 3

/-! ## Decoding -/

/-- Format Z: no operand (R91). -/
def formatZ (w : Word) (i : Instr) : Except Illegal Instr :=
  if zeroFieldZ w = 0#24 then .ok i else .error .mustBeZero

/-- Format I with `sel` required to be 0 (R92). -/
def formatI (w : Word) (f : Imm → Instr) : Except Illegal Instr :=
  if selField w = 0#4 then .ok (f (immField w)) else .error .selNotZero

/-- Format B (R93). -/
def formatB (w : Word) (f : Byte → Byte → Instr) : Except Illegal Instr :=
  if zeroFieldB w = 0#8 then .ok (f (posField w) (lowByteField w)) else .error .mustBeZero

/-- Format R (R94). -/
def formatR (w : Word) (f : BitVec 3 → Byte → Instr) : Except Illegal Instr :=
  if zeroFieldR w = 0#13 then .ok (f (nbField w) (lowByteField w)) else .error .mustBeZero

/-- A decoded command whose operand value is restricted (R95): an out-of-range value is an illegal encoding, never a
truncation. -/
def checked (why : Illegal) : Except Illegal Instr → Except Illegal Instr
  | .ok i => if i.wellFormed then .ok i else .error why
  | .error e => .error e

/-- The decoder (R90: the opcode alone selects the command and its format; R96 to R98). -/
def decode (w : Word) : Except Illegal Instr :=
  match opField w with
  | 0x00#8 => formatZ w .nop
  | 0x01#8 => formatZ w .srst
  | 0x10#8 => formatI w .setn
  | 0x11#8 => formatZ w .rsclr
  | 0x12#8 => checked .ruleRange (formatI w .rspush)
  | 0x13#8 => formatI w .setc1
  | 0x14#8 => formatI w .setc2
  | 0x15#8 => formatI w .setipb
  | 0x16#8 => formatI w .setwarm
  | 0x17#8 => checked .modeRange (formatI w .setmode)
  | 0x18#8 => checked .slotRange (.ok (.setxi (selField w) (immField w)))
  | 0x19#8 => formatI w .setdlen
  | 0x1A#8 => formatB w .lddig
  | 0x20#8 => formatZ w .seed
  | 0x21#8 => formatZ w .seedraw
  | 0x22#8 => formatZ w .mix
  | 0x30#8 => formatZ w .warmup
  | 0x31#8 => formatZ w .genb
  | 0x32#8 => formatI w .fill
  | 0x40#8 => formatZ w .xstream
  | 0x41#8 => formatZ w .xstreamx
  | 0x50#8 => formatR w .reval
  | 0x51#8 => formatR w .revalc
  | 0x60#8 => formatI w .rdreg
  | 0x61#8 => formatI w .rdcell
  | _ => .error .unassignedOpcode

/-- The host's view of the decoder: the command read from the `nbits`-bit word `w` (every bit above `nbits` is 0). -/
def decodeTableWord (nbits w : Nat) : Option Instr :=
  match decode (BitVec.ofNat 32 (w % 2 ^ nbits)) with
  | .ok i => some i
  | .error _ => none

/-! ## Encoding -/

/-- A word of format Z. -/
def wordZ (op : Byte) : Word := op ++ 0#24

/-- A word of format I. -/
def wordI (op : Byte) (sel : BitVec 4) (imm : Imm) : Word := op ++ (sel ++ imm)

/-- A word of format B. -/
def wordB (op : Byte) (pos val : Byte) : Word := op ++ (0#8 ++ (pos ++ val))

/-- A word of format R. -/
def wordR (op : Byte) (nb : BitVec 3) (rule : Byte) : Word := op ++ (0#13 ++ (nb ++ rule))

/-- The command's word (R96). -/
def encode : Instr → Word
  | .nop => wordZ 0x00#8
  | .srst => wordZ 0x01#8
  | .setn n => wordI 0x10#8 0#4 n
  | .rsclr => wordZ 0x11#8
  | .rspush imm => wordI 0x12#8 0#4 imm
  | .setc1 v => wordI 0x13#8 0#4 v
  | .setc2 v => wordI 0x14#8 0#4 v
  | .setipb v => wordI 0x15#8 0#4 v
  | .setwarm v => wordI 0x16#8 0#4 v
  | .setmode imm => wordI 0x17#8 0#4 imm
  | .setxi sel idx => wordI 0x18#8 sel idx
  | .setdlen v => wordI 0x19#8 0#4 v
  | .lddig pos val => wordB 0x1A#8 pos val
  | .seed => wordZ 0x20#8
  | .seedraw => wordZ 0x21#8
  | .mix => wordZ 0x22#8
  | .warmup => wordZ 0x30#8
  | .genb => wordZ 0x31#8
  | .fill len => wordI 0x32#8 0#4 len
  | .xstream => wordZ 0x40#8
  | .xstreamx => wordZ 0x41#8
  | .reval nb rule => wordR 0x50#8 nb rule
  | .revalc nb rule => wordR 0x51#8 nb rule
  | .rdreg num => wordI 0x60#8 0#4 num
  | .rdcell idx => wordI 0x61#8 0#4 idx

/-! ## The opcode map as the spec prints it -/

/-- The 25 rows of R96, mask and match as printed there. -/
def opcodeRows : List OpcodeRow :=
  [ ⟨"NOP", 0xFFFFFFFF#32, 0x00000000#32⟩, ⟨"SRST", 0xFFFFFFFF#32, 0x01000000#32⟩,
    ⟨"SETN", 0xFFF00000#32, 0x10000000#32⟩, ⟨"RSCLR", 0xFFFFFFFF#32, 0x11000000#32⟩,
    ⟨"RSPUSH", 0xFFFFFF00#32, 0x12000000#32⟩, ⟨"SETC1", 0xFFF00000#32, 0x13000000#32⟩,
    ⟨"SETC2", 0xFFF00000#32, 0x14000000#32⟩, ⟨"SETIPB", 0xFFF00000#32, 0x15000000#32⟩,
    ⟨"SETWARM", 0xFFF00000#32, 0x16000000#32⟩, ⟨"SETMODE", 0xFFFFFFFC#32, 0x17000000#32⟩,
    ⟨"SETXI", 0xFF800000#32, 0x18000000#32⟩, ⟨"SETDLEN", 0xFFF00000#32, 0x19000000#32⟩ ] ++
  [ ⟨"LDDIG", 0xFFFF0000#32, 0x1A000000#32⟩, ⟨"SEED", 0xFFFFFFFF#32, 0x20000000#32⟩,
    ⟨"SEEDRAW", 0xFFFFFFFF#32, 0x21000000#32⟩, ⟨"MIX", 0xFFFFFFFF#32, 0x22000000#32⟩,
    ⟨"WARMUP", 0xFFFFFFFF#32, 0x30000000#32⟩, ⟨"GENB", 0xFFFFFFFF#32, 0x31000000#32⟩,
    ⟨"FILL", 0xFFF00000#32, 0x32000000#32⟩, ⟨"XSTREAM", 0xFFFFFFFF#32, 0x40000000#32⟩,
    ⟨"XSTREAMX", 0xFFFFFFFF#32, 0x41000000#32⟩, ⟨"REVAL", 0xFFFFF800#32, 0x50000000#32⟩,
    ⟨"REVALC", 0xFFFFF800#32, 0x51000000#32⟩, ⟨"RDREG", 0xFFF00000#32, 0x60000000#32⟩,
    ⟨"RDCELL", 0xFFF00000#32, 0x61000000#32⟩ ]

/-- The mnemonic of a command, as R96 and spec/opcode_table.json spell it. -/
def Instr.mnemonic : Instr → String
  | .nop => "NOP"
  | .srst => "SRST"
  | .setn _ => "SETN"
  | .rsclr => "RSCLR"
  | .rspush _ => "RSPUSH"
  | .setc1 _ => "SETC1"
  | .setc2 _ => "SETC2"
  | .setipb _ => "SETIPB"
  | .setwarm _ => "SETWARM"
  | .setmode _ => "SETMODE"
  | .setxi _ _ => "SETXI"
  | .setdlen _ => "SETDLEN"
  | .lddig _ _ => "LDDIG"
  | .seed => "SEED"
  | .seedraw => "SEEDRAW"
  | .mix => "MIX"
  | .warmup => "WARMUP"
  | .genb => "GENB"
  | .fill _ => "FILL"
  | .xstream => "XSTREAM"
  | .xstreamx => "XSTREAMX"
  | .reval _ _ => "REVAL"
  | .revalc _ _ => "REVALC"
  | .rdreg _ => "RDREG"
  | .rdcell _ => "RDCELL"

end Sys2Proof
end

