-- ==== Sys2Proof/Config.lean ====
section
/-! DEFINITION. What a hardware build fixes (spec/00_scope.md R10) and the constants the spec fixes (R11, R41). -/

namespace Sys2Proof

/-- The four parameters of a build, which the spec leaves open and the model takes as arguments (R10, D4). They are
carried in the state, where no step changes them, so that a statement about every state is a statement about every
build (assumption log 1). -/
structure Build where
  /-- `NMAX`, the largest grid length the grid store can hold. -/
  nmax : Nat
  /-- `LMAX`, the capacity of the rule schedule, in entries. -/
  lmax : Nat
  /-- `DMAX`, the capacity of the digest buffer, in bytes. -/
  dmax : Nat
  /-- `CHUNK`, the most bytes the stream processor reads before it asks for key bytes. -/
  chunk : Nat
deriving DecidableEq, Repr

/-- The ranges of R10. `CHUNK` has no upper bound. -/
abbrev Build.wf (b : Build) : Prop :=
  (64 ≤ b.nmax ∧ b.nmax ≤ 1048575) ∧ (8 ≤ b.lmax ∧ b.lmax ≤ 256) ∧ (32 ≤ b.dmax ∧ b.dmax ≤ 256) ∧
    1 ≤ b.chunk

/-- The build the test vectors of spec/95_test_vectors.md use unless they say otherwise. DESIGN CHOICE as the build of
`State.reset` (assumption log 1). -/
def Build.reference : Build := { nmax := 4096, lmax := 16, dmax := 64, chunk := 8192 }

/-- `PROG_GRAN` = 2^20 bytes, the progress granularity (R11, D18). -/
def progGran : Nat := 1048576

/-- The word on `KRQ` for a request of 2^32 bytes or more, which only a build with such a `CHUNK` can make: R105 gives the
count 32 bits and no rule says what crosses then. A free value, one for every count: nothing constrains it (DESIGN
CHOICE, assumption log 2). -/
opaque keyCountBeyondPort : Nat → Word

/-- The contents of the read-only register `ID` (R41). -/
def idValue : Nat := 0x00CA07

end Sys2Proof
end

