-- ==== Sys2Proof/Machine/State.lean ====
section
/-! DEFINITION. The state of the block as plain data (spec/10_state.md): the architectural registers and stores of R20,
the ports of R51 as queues of items, and the hidden state of a command in progress (R45). -/

namespace Sys2Proof.Machine

/-! ## Names the spec gives values to -/

/-- `PHASE` (R23): values 4, 5 and 6 never occur, so the type has five values (93 V4). -/
inductive Phase where
  | idle
  | seeded
  | warmed
  | running
  | fault
deriving DecidableEq, Repr

/-- The error codes of `ERR` (spec/60_exceptions.md R236). Codes 11 to 255 are never produced (93 V5). -/
inductive Err where
  /-- `E_NONE`, 0. -/
  | none
  /-- `E_ILLEGAL`, 1: the word matches no row of the opcode map. -/
  | illegal
  /-- `E_PHASE`, 2: the command is not allowed in the current phase. -/
  | phase
  /-- `E_SIZE`, 3. -/
  | size
  /-- `E_RULES`, 4. -/
  | rules
  /-- `E_IPB`, 5. -/
  | ipb
  /-- `E_INDEX`, 6. -/
  | index
  /-- `E_DLEN`, 7. -/
  | dlen
  /-- `E_RANGE`, 8. -/
  | range
  /-- `E_SEEDLEN`, 9. -/
  | seedLen
  /-- `E_IO`, 10. -/
  | io
deriving DecidableEq, Repr

/-! ## Items of the ports -/

/-- A symbol of the `DIN` port (R51, R105). -/
inductive Symbol where
  | data (v : Byte)
  | endFrame
  | ioErr
deriving DecidableEq, Repr

/-- The `DOUT` sink's answer to an offered byte (R51). -/
inductive Answer where
  | ok
  | ioerr
deriving DecidableEq, Repr

/-- A draw request on `DRQ` (spec/30_encoding.md R104); kind 3 is never sent. -/
inductive DrawKind where
  | gate2
  | gate1
  | index
deriving DecidableEq, Repr

/-- An item that has crossed a port. A byte offered on `DOUT` is recorded with the sink's answer. -/
inductive Item where
  | cmd (w : Word)
  | rsp (w : Word)
  | din (d : Symbol)
  | dout (v : Byte) (a : Answer)
  | krq (count : Word)
  | kin (v : Byte)
  | drq (k : DrawKind)
  | drw (d : Word)
  | evt (count : BitVec 64)
deriving DecidableEq, Repr

/-- The `RST` input: its level now (R51), and, as far as the environment has settled it, when the level changes. `RST` may
be asserted at any moment of a command (R265). Every register is then reset, so the moment shows only in which items
have already crossed a port: it is given as their number (assumption log 6). -/
inductive ResetPin where
  /-- Released. -/
  | released
  /-- Asserted. -/
  | asserted
  /-- Released now; asserted as soon as this many more items have crossed the ports, before anything else happens. -/
  | assertedAfter (items : Nat)
deriving DecidableEq, Repr

/-! ## The command in progress -/

/-- The key source of a stream command (spec/44_stream.md R191). -/
inductive KeySource where
  | int
  | ext
deriving DecidableEq, Repr

/-- Which draw of `ProduceByte` and `Enhance` (R175, R176) has been requested and not answered. -/
inductive DrawPoint where
  | gate2
  | gate1
  | flip
  /-- A trial of the loop, with the number of trials that follow it. -/
  | trial (left : Nat)
deriving DecidableEq, Repr

/-- What the byte that `ProduceByte` is making is for, with the locals of that command. -/
inductive ByteUse where
  /-- The response of `GENB`. -/
  | genb
  /-- `FILL`: bytes still to produce after this one, bytes written so far. -/
  | fill (left : Nat) (cnt : Nat)
  /-- `KeyFill(INT, k)` inside a stream: key bytes still to produce after this one; then `cnt`, whether `End` has been
  read, `IB`, and the key bytes so far. -/
  | key (left : Nat) (cnt : Nat) (last : Bool) (ib kb : List Byte)
deriving DecidableEq, Repr

/-- Where the command in progress waits for the environment, with its locals: the hidden state of R45. -/
inductive Job where
  /-- `SEEDRAW`: waits for a `DIN` symbol; `cnt` data bytes so far. -/
  | seedRaw (cnt : Nat)
  /-- `GENB`, `FILL` or `XSTREAM`: waits for a draw answer. -/
  | draw (p : DrawPoint) (u : ByteUse)
  /-- `FILL`: waits for the sink's answer to `v`; bytes still to produce, bytes written so far. -/
  | fillOut (left : Nat) (cnt : Nat) (v : Byte)
  /-- `Stream`: waits for a `DIN` symbol; bytes written so far, the bytes of the chunk so far (`IB`). -/
  | read (src : KeySource) (cnt : Nat) (ib : List Byte)
  /-- `KeyReq`: waits for a `KIN` byte; the key bytes so far are `kb`. -/
  | keyIn (cnt : Nat) (last : Bool) (ib kb : List Byte)
  /-- `Stream`: waits for the sink's answer to `v`; `rest` are the chunk's bytes still to be offered. -/
  | write (src : KeySource) (cnt : Nat) (last : Bool) (v : Byte) (rest : List Byte)
deriving DecidableEq, Repr

/-! ## The state -/

/-- A byte store: a list of (address, byte) pairs in the canonical form `Memory.wf` of Machine/Ops.lean. -/
abbrev Memory := List Host.Cell

/-- The architectural state of R20. -/
structure Regs where
  /-- `PHASE` (R23). -/
  phase : Phase
  /-- `ERR` (R24). -/
  err : Err
  /-- `STATUS.DEGR` (R26). -/
  degr : Bool
  /-- `SIZE`, written `N` (R30). -/
  size : Imm
  /-- `RLEN` (R28, R42). -/
  rlen : BitVec 9
  /-- `CUR` (R29, R42). -/
  cur : BitVec 8
  /-- `C1` (R31). -/
  c1 : Imm
  /-- `C2` (R32). -/
  c2 : Imm
  /-- `IPB` (R33). -/
  ipb : Imm
  /-- `WARM` (R34). -/
  warm : Imm
  /-- `MODE` = `{ENT, XMODE}` (R35). -/
  mode : BitVec 2
  /-- `DLEN` (R37). -/
  dlen : BitVec 9
  /-- `KACC` (R39). -/
  kacc : Imm
  /-- `XI[0..7]` (R36). -/
  xi : Vector Imm 8
  /-- `RS[0..LMAX-1]` (R28). -/
  rs : Memory
  /-- `DIG[0..DMAX-1]` (R38). -/
  dig : Memory
  /-- `GRID[0..N-1]` (R27): the cells that hold a value, cell 0 first; none before seeding (R50). -/
  grid : List Bool
deriving DecidableEq, Repr

/-- The ports of R51. An input queue holds the items the environment has offered and the block has not taken, the
oldest first. `trace` holds every item that has crossed a port, the newest first. -/
structure Ports where
  /-- `RST`: the reset pin. -/
  rst : ResetPin
  /-- `CMD`: command words. -/
  cmd : List Word
  /-- `DIN`: stream symbols. -/
  din : List Symbol
  /-- `DOUT`: the sink's answers to the bytes the block will offer. -/
  sink : List Answer
  /-- `KIN`: external key bytes. -/
  kin : List Byte
  /-- `DRW`: draw answers. -/
  drw : List Word
  /-- What has crossed the ports (R52), the newest item first. -/
  trace : List Item
deriving DecidableEq, Repr

/-- The state of the model. -/
structure State where
  /-- The build's parameters (R10); no step changes them. -/
  build : Build
  /-- The architectural state (R20). -/
  regs : Regs
  /-- The ports (R51). -/
  ports : Ports
  /-- The command in progress, if one waits for the environment (R45). -/
  job : Option Job
deriving DecidableEq, Repr

/-- The reset values of R49, the same for `RST` and `SRST`. The grid holds no cell: its contents after reset are
unspecified and cannot be observed (R50; DESIGN CHOICE, assumption log 3). -/
def resetRegs : Regs where
  phase := .idle
  err := .none
  degr := false
  size := 0#20
  rlen := 4#9
  cur := 0#8
  c1 := 13#20
  c2 := 7#20
  ipb := 1#20
  warm := 0#20
  mode := 0#2
  dlen := 32#9
  kacc := 0#20
  xi := #v[0#20, 0#20, 0#20, 0#20, 0#20, 0#20, 0#20, 0#20]
  rs := [(0, 150#8), (1, 30#8), (2, 90#8), (3, 22#8)]
  dig := []
  grid := []

/-- Ports on which nothing is offered and nothing has crossed, `RST` released. -/
def quietPorts : Ports where
  rst := .released
  cmd := []
  din := []
  sink := []
  kin := []
  drw := []
  trace := []

/-- A block of build `b` right after reset, with quiet ports. -/
def State.resetOf (b : Build) : State := { build := b, regs := resetRegs, ports := quietPorts, job := none }

/-- The machine right after reset (R49, R265), of the reference build (DESIGN CHOICE, assumption log 1). -/
def State.reset : State := State.resetOf Build.reference

/-! ## How a step can stop -/

/-- The reasons the machine could stop with a fault: there are none. The block's only exception mechanism is `fault(c)`
(R240), which is a next state, and behaviour is fully defined for every word in every state (R279). Nobody raises one,
so nothing is unsafe in it. -/
inductive Fault
deriving DecidableEq, Repr

/-- The reasons the machine could refuse a command. -/
inductive Refusal where
  /-- Raised only by an arm of `exec` whose command has no meaning yet; safe, since the machine then stops. No arm of
  this model raises it. -/
  | notModelled (mnemonic : String)
deriving DecidableEq, Repr

end Sys2Proof.Machine
end

