-- ==== Sys2Proof/Machine/Flags.lean ====
section
/-! DEFINITION. The status and mode views of the registers (spec/10_state.md R23 to R26, R35), and the codes of the
enumerated values. The block has one flag, `DEGR`, and no condition codes (R26): no command computes a flag from a
result. -/

namespace Sys2Proof.Machine

/-- The 3-bit code of a phase (R23). -/
def Phase.code : Phase → BitVec 3
  | .idle => 0#3
  | .seeded => 1#3
  | .warmed => 2#3
  | .running => 3#3
  | .fault => 7#3

/-- The 8-bit error code (spec/60_exceptions.md R236). -/
def Err.code : Err → Byte
  | .none => 0#8
  | .illegal => 1#8
  | .phase => 2#8
  | .size => 3#8
  | .rules => 4#8
  | .ipb => 5#8
  | .index => 6#8
  | .dlen => 7#8
  | .range => 8#8
  | .seedLen => 9#8
  | .io => 10#8

/-- `STATUS` = `{DEGR, PHASE[2:0]}`, a view without storage (R25). -/
def Regs.status (r : Regs) : BitVec 4 := BitVec.ofBool r.degr ++ r.phase.code

/-- `MODE.XMODE`: distributed-index extraction is selected (R35). -/
def Regs.xmode (r : Regs) : Bool := r.mode.getLsbD 0

/-- `MODE.ENT`: entropy injection is enabled (R35). -/
def Regs.ent (r : Regs) : Bool := r.mode.getLsbD 1

/-- The 2-bit code of a draw kind on `DRQ` (spec/30_encoding.md R104). -/
def DrawKind.code : DrawKind → BitVec 2
  | .gate2 => 0#2
  | .gate1 => 1#2
  | .index => 2#2

/-- The 10-bit coding `{kind[1:0], v[7:0]}` R105 suggests for a `DIN` item; `v` is ignored unless `Data` and is sent
as 0 here. -/
def Symbol.code : Symbol → BitVec 10
  | .data v => 0#2 ++ v
  | .endFrame => 1#2 ++ 0#8
  | .ioErr => 2#2 ++ 0#8

/-- The kind code of the only event, `PROGRESS` (R103). -/
def progressCode : Nat := 1

/-- The sink's one-bit answer (R105): 0 is `ok`, 1 is `ioerr`. -/
def Answer.code : Answer → BitVec 1
  | .ok => 0#1
  | .ioerr => 1#1

end Sys2Proof.Machine
end

