-- ==== Sys2Proof/Machine/Ops.lean ====
section
/-! DEFINITION. The named operations over the stores, the ports and the command in progress; `fault(c)`, the block's one
exception mechanism, and the two resets, the only return from it (spec/60_exceptions.md R240, R265). -/

namespace Sys2Proof.Machine

/-! ## The byte stores `RS` and `DIG` -/

/-- What an address with no entry reads as: the reset contents of `DIG` and of `RS[4..]` (R49). -/
def Memory.unlisted : Byte := 0#8

/-- The byte at an address. -/
def Memory.read : Memory → Nat → Byte
  | [], _ => Memory.unlisted
  | (b, v) :: m, a => if a = b then v else Memory.read m a

/-- Write a byte, keeping the canonical form: writing what an unlisted address reads as leaves no entry. -/
def Memory.write : Memory → Nat → Byte → Memory
  | [], a, v => if v = Memory.unlisted then [] else [(a, v)]
  | (b, x) :: m, a, v =>
    if a < b then (if v = Memory.unlisted then (b, x) :: m else (a, v) :: (b, x) :: m)
    else if a = b then (if v = Memory.unlisted then m else (a, v) :: m)
    else (b, x) :: Memory.write m a v

/-- The canonical form: addresses strictly rising, and no entry equal to what an unlisted address reads as. -/
abbrev Memory.wf (m : Memory) : Prop :=
  m.Pairwise (fun c d => c.1 < d.1) ∧ ∀ c ∈ m, c.2 ≠ Memory.unlisted

/-! ## The grid -/

/-- Cell `i` of the grid; a cell that holds no value reads 0, which no command can see (R50; assumption log 3). -/
def cell (g : List Bool) (i : Nat) : Bool := g.getD i false

/-- `N`, the grid length as an integer (R30). -/
def Regs.n (r : Regs) : Nat := r.size.toNat

/-- The bits of a byte, bit 0 first (R65). -/
def bitsOf (v : Byte) : List Bool := (List.range 8).map fun j => v.getLsbD j

/-! ## Changing parts of the state -/

/-- The state with other registers. -/
def State.withRegs (s : State) (r : Regs) : State := { s with regs := r }

/-- The state with other ports. -/
def State.withPorts (s : State) (p : Ports) : State := { s with ports := p }

/-- The command in progress now waits as `j` says (R15: a primitive that waits for the environment waits without
bound). -/
def State.wait (j : Job) (s : State) : State := { s with job := some j }

/-- Record an item that crosses a port. -/
def State.emit (x : Item) (s : State) : State :=
  { s with ports := { s.ports with trace := x :: s.ports.trace } }

/-! ## Taking items from the input ports -/

/-- Take the next command word from `CMD` (R51). -/
def State.takeCmd (s : State) : Option (Word × State) :=
  match s.ports.cmd with
  | [] => none
  | w :: rest => some (w, { s with ports := { s.ports with cmd := rest, trace := .cmd w :: s.ports.trace } })

/-- `Din()` (R15): take the next symbol from `DIN`. -/
def State.takeDin (s : State) : Option (Symbol × State) :=
  match s.ports.din with
  | [] => none
  | d :: rest => some (d, { s with ports := { s.ports with din := rest, trace := .din d :: s.ports.trace } })

/-- The sink's answer to the offered byte `v` (R15: `Dout(v)` offers the byte and returns `ok` or `ioerr`). -/
def State.takeAnswer (v : Byte) (s : State) : Option (Answer × State) :=
  match s.ports.sink with
  | [] => none
  | a :: rest => some (a, { s with ports := { s.ports with sink := rest, trace := .dout v a :: s.ports.trace } })

/-- Take the next byte from `KIN` (R15). -/
def State.takeKey (s : State) : Option (Byte × State) :=
  match s.ports.kin with
  | [] => none
  | v :: rest => some (v, { s with ports := { s.ports with kin := rest, trace := .kin v :: s.ports.trace } })

/-- Take the next draw answer from `DRW` (R15). -/
def State.takeDraw (s : State) : Option (Word × State) :=
  match s.ports.drw with
  | [] => none
  | d :: rest => some (d, { s with ports := { s.ports with drw := rest, trace := .drw d :: s.ports.trace } })

/-- How many items the command in progress could still take. -/
def Ports.queued (p : Ports) : Nat := p.din.length + p.sink.length + p.kin.length + p.drw.length

/-- The word that asks for `count` key bytes on the 32-bit port `KRQ` (R105). -/
def keyCountWord (count : Nat) : Word :=
  if count < 4294967296 then BitVec.ofNat 32 count else keyCountBeyondPort count

/-! ## What crosses the ports -/

/-- One item crosses its port: an input item leaves its queue, and the record grows. -/
def Ports.cross (p : Ports) (x : Item) : Ports :=
  match x with
  | .cmd _ => { p with cmd := p.cmd.tail, trace := x :: p.trace }
  | .rsp _ => { p with trace := x :: p.trace }
  | .din _ => { p with din := p.din.tail, trace := x :: p.trace }
  | .dout _ _ => { p with sink := p.sink.tail, trace := x :: p.trace }
  | .krq _ => { p with trace := x :: p.trace }
  | .kin _ => { p with kin := p.kin.tail, trace := x :: p.trace }
  | .drq _ => { p with trace := x :: p.trace }
  | .drw _ => { p with drw := p.drw.tail, trace := x :: p.trace }
  | .evt _ => { p with trace := x :: p.trace }

/-- The items that have crossed from `p` to the later `q`, the oldest first. -/
def Ports.crossedTo (p q : Ports) : List Item := (q.trace.take (q.trace.length - p.trace.length)).reverse

/-! ## What an observer of a port has seen (R52), the oldest item first -/

/-- The response words. -/
def Ports.responses (p : Ports) : List Word :=
  p.trace.reverse.filterMap fun x => match x with | .rsp w => some w | _ => none

/-- The bytes the sink has accepted. -/
def Ports.delivered (p : Ports) : List Byte :=
  p.trace.reverse.filterMap fun x => match x with | .dout v .ok => some v | _ => none

/-- The symbols taken from `DIN`. -/
def Ports.consumed (p : Ports) : List Symbol :=
  p.trace.reverse.filterMap fun x => match x with | .din d => some d | _ => none

/-- The key requests. -/
def Ports.keyRequests (p : Ports) : List Word :=
  p.trace.reverse.filterMap fun x => match x with | .krq k => some k | _ => none

/-- The draw requests. -/
def Ports.drawRequests (p : Ports) : List DrawKind :=
  p.trace.reverse.filterMap fun x => match x with | .drq k => some k | _ => none

/-- The counts of the `PROGRESS` events. -/
def Ports.events (p : Ports) : List (BitVec 64) :=
  p.trace.reverse.filterMap fun x => match x with | .evt c => some c | _ => none

/-! ## Responding, faulting, resetting -/

/-- A response word `{err[7:0], payload[23:0]}` (R101); the payload is taken modulo 2^24. -/
def respWord (e : Err) (p : Nat) : Word := e.code ++ BitVec.ofNat 24 p

/-- `Rsp(e, p)` (R15): put the response on `RSP`. It is the last thing a command does (R101), so no command is in
progress after it. -/
def State.rsp (e : Err) (p : Nat) (s : State) : State :=
  { s with ports := { s.ports with trace := .rsp (respWord e p) :: s.ports.trace }, job := none }

/-- `fault(c)` (R16, R240): `ERR <- c; PHASE <- FAULT; Rsp(c, 0)`, and the command ends. Nothing else is saved or
changed. -/
def State.raise (c : Err) (s : State) : State :=
  State.rsp c 0 (s.withRegs { s.regs with err := c, phase := .fault })

/-- A command dropped in FAULT (R250): no state changes, no port but `RSP` is touched, the response is `{ERR, 0}`. -/
def State.dropped (s : State) : State := State.rsp s.regs.err 0 s

/-- A word that matches no row of the opcode map (R99, R241): `fault(E_ILLEGAL)`, or dropped in FAULT. -/
def State.illegalCommand (s : State) : State :=
  if s.regs.phase = .fault then s.dropped else s.raise .illegal

/-- Every piece of architectural state at its reset value (R49), nothing in progress: what both resets do (R265), and
the only way out of FAULT (R240). The ports' queues are the environment's and stay. -/
def State.cleared (s : State) : State := { s with regs := resetRegs, job := none }

/-- The step of a block whose `RST` is asserted (R265): the state is reset, a command in progress is abandoned without
a response, no command is accepted and no port is driven. -/
def State.hardReset (s : State) : State := s.cleared

/-- The state with another `RST` input. -/
def State.withRst (x : ResetPin) (s : State) : State := { s with ports := { s.ports with rst := x } }

/-- `RST` is asserted when `k` of the items have crossed that would cross on the way from `s` to `t`: the command is
abandoned there, in whatever it was doing, without a response unless that had crossed; what has crossed stays crossed,
and every register is reset (R265). -/
def State.abandoned (s : State) (k : Nat) (t : State) : State :=
  { s.cleared with ports := ((s.ports.crossedTo t.ports).take k).foldl Ports.cross { s.ports with rst := .asserted } }

/-- A step from `s` that would lead to `t`, with `RST` asserted after `k` more items: abandoned if so many cross in it,
else completed, with the rest of the number to go. -/
def State.resetWithin (s : State) (k : Nat) (t : State) : State :=
  if k ≤ (s.ports.crossedTo t.ports).length then s.abandoned k t
  else t.withRst (.assertedAfter (k - (s.ports.crossedTo t.ports).length))

/-- `SRST` (spec/45_system_readback.md R206): the reset, then `Rsp(0, 0)`. -/
def State.softReset (s : State) : State := State.rsp .none 0 s.cleared

/-- Put a command word where the next step takes it: at the head of `CMD`, with no command in progress and `RST`
released. -/
def State.offerCommand (s : State) (w : Word) : State :=
  { s with ports := { s.ports with cmd := w :: s.ports.cmd, rst := .released }, job := none }

end Sys2Proof.Machine
end

