-- ==== Sys2Proof/Machine/Operands.lean ====
section
/-! DEFINITION. The checks on a command before it acts (spec/30_encoding.md R108, spec/60_exceptions.md R251), the
addressing modes of the grid (spec/20_memory.md R72) and the register numbers of `RDREG` (spec/10_state.md R42). -/

namespace Sys2Proof.Machine

/-! ## Which command is legal in which phase (R108) -/

/-- Allowed in IDLE, SEEDED, WARMED and RUNNING. -/
def Phase.unfaulted : Phase → Bool
  | .idle => true
  | .seeded => true
  | .warmed => true
  | .running => true
  | .fault => false

/-- Allowed only in IDLE. -/
def Phase.isIdle : Phase → Bool
  | .idle => true
  | .seeded => false
  | .warmed => false
  | .running => false
  | .fault => false

/-- Allowed in IDLE and SEEDED. -/
def Phase.beforeWarmup : Phase → Bool
  | .idle => true
  | .seeded => true
  | .warmed => false
  | .running => false
  | .fault => false

/-- Allowed only in SEEDED. -/
def Phase.isSeeded : Phase → Bool
  | .idle => false
  | .seeded => true
  | .warmed => false
  | .running => false
  | .fault => false

/-- Allowed in WARMED and RUNNING. -/
def Phase.producing : Phase → Bool
  | .idle => false
  | .seeded => false
  | .warmed => true
  | .running => true
  | .fault => false

/-- Allowed in SEEDED, WARMED and RUNNING: the grid holds a generation (R43). -/
def Phase.active : Phase → Bool
  | .idle => false
  | .seeded => true
  | .warmed => true
  | .running => true
  | .fault => false

/-- The table of R108, its four non-FAULT columns. In FAULT no command is looked up here (R250); `SRST` and `RDREG`
act there by their own meanings. -/
def legalIn : Instr → Phase → Bool
  | .nop => Phase.unfaulted
  | .srst => Phase.unfaulted
  | .rdreg _ => Phase.unfaulted
  | .reval _ _ => Phase.unfaulted
  | .revalc _ _ => Phase.unfaulted
  | .xstreamx => Phase.unfaulted
  | .setn _ => Phase.isIdle
  | .rsclr => Phase.isIdle
  | .rspush _ => Phase.isIdle
  | .setc1 _ => Phase.isIdle
  | .setc2 _ => Phase.isIdle
  | .setipb _ => Phase.isIdle
  | .setwarm _ => Phase.isIdle
  | .setmode _ => Phase.isIdle
  | .setxi _ _ => Phase.isIdle
  | .setdlen _ => Phase.isIdle
  | .lddig _ _ => Phase.beforeWarmup
  | .seed => Phase.isIdle
  | .seedraw => Phase.isIdle
  | .mix => Phase.isSeeded
  | .warmup => Phase.isSeeded
  | .genb => Phase.producing
  | .fill _ => Phase.producing
  | .xstream => Phase.producing
  | .rdcell _ => Phase.active

/-- The checks of R251 in their order, before a command's own: in FAULT it is dropped (R250); an encoding that is not
legal is `E_ILLEGAL` (R241); a command not allowed in the phase is `E_PHASE` (R242); else `body` runs. -/
def guarded (i : Instr) (body : State → State) (s : State) : Host.Outcome State Fault Refusal :=
  .next
    (if s.regs.phase = .fault then s.dropped
     else if i.wellFormed = false then s.raise .illegal
     else if legalIn i s.regs.phase = false then s.raise .phase
     else body s)

/-! ## The addressing modes of the grid (R72) -/

/-- Formula: `(KACC + C2·b) mod N`, on unbounded integers (R171). -/
def Regs.formulaIndex (r : Regs) (b : Nat) : Nat := (r.kacc.toNat + r.c2.toNat * b) % r.n

/-- `ExtractIndex(b)` (spec/43_generator.md R171): the cell that supplies bit `b` of the byte being produced. -/
def Regs.extractIndex (r : Regs) (b : Fin 8) : Nat :=
  if r.xmode then (r.xi[b]).toNat else r.formulaIndex b.val

/-- Tiled: `DigBit(i)` (spec/42_seeder.md R151), bit `i mod 8` of digest byte `i mod DLEN`. -/
def Regs.digBit (r : Regs) (i : Nat) : Bool := (r.dig.read (i % r.dlen.toNat)).getLsbD (i % 8)

/-- Drawn: `d mod N` (spec/30_encoding.md R104). -/
def Regs.drawnIndex (r : Regs) (d : Word) : Nat := d.toNat % r.n

/-- Opposite: `(a + floor(N/2)) mod N` (R175). -/
def Regs.oppositeIndex (r : Regs) (a : Nat) : Nat := (a + r.n / 2) % r.n

/-- The left neighbours of the cells, in order: entry `i` is cell `(i - 1) mod N` (R62). -/
def leftNeighbours (g : List Bool) : List Bool := g.rotate (g.length - 1)

/-- The right neighbours of the cells, in order: entry `i` is cell `(i + 1) mod N` (R62). -/
def rightNeighbours (g : List Bool) : List Bool := g.rotate 1

/-! ## The registers of `RDREG` (R42) -/

/-- The value of register `num`, or nothing where the number names no register. -/
def State.register (s : State) (num : Nat) : Option Nat :=
  match num with
  | 0x00 => some idValue
  | 0x01 => some s.regs.status.toNat
  | 0x02 => some s.regs.err.code.toNat
  | 0x03 => some s.regs.size.toNat
  | 0x04 => some s.regs.rlen.toNat
  | 0x05 => some s.regs.cur.toNat
  | 0x06 => some s.regs.c1.toNat
  | 0x07 => some s.regs.c2.toNat
  | 0x08 => some s.regs.ipb.toNat
  | 0x09 => some s.regs.warm.toNat
  | 0x0A => some s.regs.mode.toNat
  | 0x0B => some s.regs.dlen.toNat
  | 0x0C => some s.regs.kacc.toNat
  | 0x0D => some s.build.nmax
  | 0x0E => some s.build.lmax
  | 0x0F => some s.build.dmax
  | 0x10 => some s.regs.xi[0].toNat
  | 0x11 => some s.regs.xi[1].toNat
  | 0x12 => some s.regs.xi[2].toNat
  | 0x13 => some s.regs.xi[3].toNat
  | 0x14 => some s.regs.xi[4].toNat
  | 0x15 => some s.regs.xi[5].toNat
  | 0x16 => some s.regs.xi[6].toNat
  | 0x17 => some s.regs.xi[7].toNat
  | n => if 0x100 ≤ n ∧ n < 0x100 + s.build.lmax then some (s.regs.rs.read (n - 0x100)).toNat else none

end Sys2Proof.Machine
end

