-- ==== Sys2Proof/Machine/ConfigCommands.lean ====
section
/-! DEFINITION. The configuration commands (spec/41_config.md): register writes legal in IDLE (R130; `LDDIG` in IDLE and
SEEDED), each answered `Rsp(0, 0)` on success. None checks whether a value is usable; `Validate` does, at seeding. -/

namespace Sys2Proof.Machine

/-- Write the registers and respond `Rsp(0, 0)` (R130). -/
def State.configured (s : State) (r : Regs) : State := (s.withRegs r).rsp .none 0

/-- `SETN n` (R131). -/
def execSetn (n : Imm) (s : State) : Host.Outcome State Fault Refusal :=
  guarded (.setn n) (fun s => s.configured { s.regs with size := n }) s

/-- `RSCLR` (R132): the entries keep their values but are no longer part of the schedule. -/
def execRsclr (s : State) : Host.Outcome State Fault Refusal :=
  guarded .rsclr (fun s => s.configured { s.regs with rlen := 0#9, cur := 0#8 }) s

/-- `RSPUSH r` (R133): the rule is `imm[7:0]`. -/
def execRspush (imm : Imm) (s : State) : Host.Outcome State Fault Refusal :=
  guarded (.rspush imm)
    (fun s =>
      if s.regs.rlen.toNat = s.build.lmax then s.raise .range
      else s.configured
        { s.regs with
          rs := s.regs.rs.write s.regs.rlen.toNat (imm.extractLsb' 0 8)
          rlen := s.regs.rlen + 1#9 }) s

/-- `SETC1 v` (R134). -/
def execSetc1 (v : Imm) (s : State) : Host.Outcome State Fault Refusal :=
  guarded (.setc1 v) (fun s => s.configured { s.regs with c1 := v }) s

/-- `SETC2 v` (R135). -/
def execSetc2 (v : Imm) (s : State) : Host.Outcome State Fault Refusal :=
  guarded (.setc2 v) (fun s => s.configured { s.regs with c2 := v }) s

/-- `SETIPB v` (R136). -/
def execSetipb (v : Imm) (s : State) : Host.Outcome State Fault Refusal :=
  guarded (.setipb v) (fun s => s.configured { s.regs with ipb := v }) s

/-- `SETWARM v` (R137). -/
def execSetwarm (v : Imm) (s : State) : Host.Outcome State Fault Refusal :=
  guarded (.setwarm v) (fun s => s.configured { s.regs with warm := v }) s

/-- `SETMODE m` (R138): `m = imm[1:0]`, bit 0 to `XMODE`, bit 1 to `ENT`. -/
def execSetmode (imm : Imm) (s : State) : Host.Outcome State Fault Refusal :=
  guarded (.setmode imm) (fun s => s.configured { s.regs with mode := imm.extractLsb' 0 2 }) s

/-- `SETXI slot, idx` (R139): the slot is `sel`, 0 to 7 in a legal encoding. -/
def execSetxi (sel : BitVec 4) (idx : Imm) (s : State) : Host.Outcome State Fault Refusal :=
  guarded (.setxi sel idx)
    (fun s => s.configured { s.regs with xi := s.regs.xi.setIfInBounds sel.toNat idx }) s

/-- `SETDLEN v` (R141): 0 and values above `DMAX` are `E_DLEN`. -/
def execSetdlen (v : Imm) (s : State) : Host.Outcome State Fault Refusal :=
  guarded (.setdlen v)
    (fun s =>
      if v.toNat = 0 ∨ v.toNat > s.build.dmax then s.raise .dlen
      else s.configured { s.regs with dlen := v.setWidth 9 }) s

/-- `LDDIG pos, val` (R142): a position at or above `DMAX` is `E_RANGE`. -/
def execLddig (pos val : Byte) (s : State) : Host.Outcome State Fault Refusal :=
  guarded (.lddig pos val)
    (fun s =>
      if pos.toNat ≥ s.build.dmax then s.raise .range
      else s.configured { s.regs with dig := s.regs.dig.write pos.toNat val }) s

end Sys2Proof.Machine
end

