-- ==== Sys2Proof/Machine/RuleEngine.lean ====
section
/-! DEFINITION. The rule engine (spec/40_rule_engine.md): `RuleEval`, `RuleEvalClosed`, and the commands `REVAL` and
`REVALC`. -/

namespace Sys2Proof.Machine

/-- `RuleEval(left, center, right, rule)` (R121): bit `left·4 + center·2 + right` of `rule`. -/
def ruleEval (left center right : Bool) (rule : Byte) : Bool :=
  rule.getLsbD (left.toNat * 4 + center.toNat * 2 + right.toNat)

/-- `RuleEvalClosed(a, b, c, rule)` (R123), with the closed form for 135 as spec/90_conflicts.md C2 corrects it. -/
def ruleEvalClosed (a b c : Bool) (rule : Byte) : Bool :=
  match rule with
  | 150#8 => (a ^^ b) ^^ c
  | 90#8 => a ^^ c
  | 30#8 => a ^^ (b || c)
  | 86#8 => (a || b) ^^ c
  | 54#8 => (a || c) ^^ b
  | 22#8 => ((a ^^ (a && b && c)) ^^ b) ^^ c
  | 135#8 => !(a ^^ (b && c))
  | 158#8 => ((a ^^ b) ^^ c) || (b && c)
  | _ => ruleEval a b c rule

/-- `REVAL nb, rule` (R124): respond with the table form. -/
def execReval (nb : BitVec 3) (rule : Byte) (s : State) : Host.Outcome State Fault Refusal :=
  guarded (.reval nb rule)
    (fun s => s.rsp .none (ruleEval (nb.getLsbD 2) (nb.getLsbD 1) (nb.getLsbD 0) rule).toNat) s

/-- `REVALC nb, rule` (R125): respond with the closed form where one exists. -/
def execRevalc (nb : BitVec 3) (rule : Byte) (s : State) : Host.Outcome State Fault Refusal :=
  guarded (.revalc nb rule)
    (fun s => s.rsp .none (ruleEvalClosed (nb.getLsbD 2) (nb.getLsbD 1) (nb.getLsbD 0) rule).toNat) s

end Sys2Proof.Machine
end

