-- ==== Sys2Proof/Machine/Engine.lean ====
section
/-! DEFINITION. The micro-operations on the registers and the grid that wait for nobody: `Evolve`, the extraction of a
byte, the grid writes of `Enhance`, `Validate` and the grid loads of the seeder (spec/42_seeder.md, spec/43_generator.md).
They are functions of the registers alone, so none of them can touch a port or a build parameter. -/

namespace Sys2Proof.Machine

/-! ## Evolution -/

/-- One generation (R168, R70): every new cell from its left neighbour, itself and its right neighbour in the old
generation, all by the same rule. -/
def evolveCells (rule : Byte) (g : List Bool) : List Bool :=
  ((leftNeighbours g).zip (g.zip (rightNeighbours g))).map fun w => ruleEval w.1 w.2.1 w.2.2 rule

/-- `Evolve()` (R168): the rule is `RS[CUR]`, read before the cursor advances modulo `RLEN` (R29). -/
def evolve (r : Regs) : Regs :=
  { r with
    grid := evolveCells (r.rs.read r.cur.toNat) r.grid
    cur := BitVec.ofNat 8 ((r.cur.toNat + 1) % r.rlen.toNat) }

/-- `for t in 1 .. k: Evolve()`. -/
def evolveTimes (k : Nat) (r : Regs) : Regs := evolve^[k] r

/-! ## Extraction -/

/-- The byte assembled from the eight extracted cells, slot `b` to bit `b` (R64, R176). -/
def extractByte (r : Regs) : Byte :=
  BitVec.ofNat 8 (((List.finRange 8).map fun b => (cell r.grid (r.extractIndex b)).toNat * 2 ^ b.val).sum)

/-- What `ProduceByte` writes after the extraction (R176): `KACC <- (KACC + C1) mod N; PHASE <- RUNNING`. -/
def afterByte (r : Regs) : Regs :=
  { r with kacc := BitVec.ofNat 20 ((r.kacc.toNat + r.c1.toNat) % r.n), phase := .running }

/-! ## The grid writes of `Enhance` (R175), each for the answer of one `INDEX` draw -/

/-- `GRID[r] <- not GRID[r]` for `r = d mod N`. -/
def flipCell (d : Word) (r : Regs) : Regs :=
  let i := r.drawnIndex d
  { r with grid := r.grid.set i (!cell r.grid i) }

/-- `GRID[r] <- GRID[r] xor GRID[(r + floor(N/2)) mod N]` for `r = d mod N`, in place (R71). -/
def trialCell (d : Word) (r : Regs) : Regs :=
  let i := r.drawnIndex d
  { r with grid := r.grid.set i (cell r.grid i ^^ cell r.grid (r.oppositeIndex i)) }

/-- The number of trials, `floor(N/4)` (R175). -/
def Regs.trials (r : Regs) : Nat := r.n / 4

/-! ## Seeding -/

/-- `Validate()` (R150): the first failing check in the fixed order, or `E_NONE`. -/
def validate (b : Build) (r : Regs) : Err :=
  if r.n < 64 ∨ r.n > b.nmax then .size
  else if r.rlen = 0#9 then .rules
  else if r.ipb = 0#20 then .ipb
  else if r.xmode = true ∧ ∃ k : Fin 8, (r.xi[k]).toNat ≥ r.n then .index
  else .none

/-- What both seeding commands write at the end: `CUR <- 0; KACC <- 0; PHASE <- SEEDED` (R152, R154). -/
def seededRegs (r : Regs) : Regs := { r with cur := 0#8, kacc := 0#20, phase := .seeded }

/-- The grid `SEED` loads (R152): cell `i` is `DigBit(i)`, for `i` in `0 .. SIZE-1`. -/
def seedGrid (r : Regs) : List Bool := (List.range r.n).map r.digBit

/-- The grid after one `MIX` round (R153): `DigBit(i)` XORed into the cells `0 .. floor(SIZE/8)·8 - 1`. -/
def mixGrid (r : Regs) : List Bool :=
  r.grid.mapIdx fun i c => if i < r.n / 8 * 8 then c ^^ r.digBit i else c

/-- `need` of `SEEDRAW` (R154): `floor((SIZE + 7) / 8)` data bytes. -/
def Regs.seedBytes (r : Regs) : Nat := (r.n + 7) / 8

/-- The grid after one more data byte of the `SEEDRAW` frame (R154): cell `8·cnt + j` is bit `j`, and bits for cells at
or beyond `SIZE` are ignored. The cells come in order, so they are appended to those already loaded (assumption
log 12). -/
def loadCells (v : Byte) (r : Regs) : Regs := { r with grid := (r.grid ++ bitsOf v).take r.n }

end Sys2Proof.Machine
end

