-- ==== Sys2Proof/Machine/Resume.lean ====
section
/-! DEFINITION. The commands that talk to the environment while they run (`SEEDRAW`, `GENB`, `FILL`, `XSTREAM`,
`XSTREAMX`): what each does with the next item of the port it waits on, up to its next wait or its response
(spec/42_seeder.md R154, spec/43_generator.md R175 to R179, spec/44_stream.md R191, R192). A wait is unbounded (R15,
R261), so the place where a command waits is part of the state (`Job`); these functions are the pseudocode of the rules
cut at its waits. Machine/Reference.lean has the same pseudocode uncut. -/

namespace Sys2Proof.Machine

/-- Send a draw request and wait for its answer (R15, R104). -/
def State.ask (k : DrawKind) (p : DrawPoint) (u : ByteUse) (s : State) : State :=
  (s.emit (.drq k)).wait (.draw p u)

/-! ## `SEEDRAW` -/

/-- The loop body of `SEEDRAW` for one symbol (R154). -/
def seedRawSymbol (cnt : Nat) (d : Symbol) (s : State) : State :=
  match d with
  | .ioErr => s.raise .io
  | .endFrame =>
    if cnt ≠ s.regs.seedBytes then s.raise .seedLen
    else (s.withRegs { seededRegs s.regs with degr := true }).rsp .none 0
  | .data v =>
    if cnt < s.regs.seedBytes then (s.withRegs (loadCells v s.regs)).wait (.seedRaw (cnt + 1))
    else s.wait (.seedRaw (cnt + 1))

/-! ## The output loops of `FILL` and `Stream` -/

/-- `FILL` offers a produced byte on `DOUT` (R179). -/
def fillOffer (left cnt : Nat) (v : Byte) (s : State) : State := s.wait (.fillOut left cnt v)

/-- `Stream` offers the next byte of the chunk; after the last one it responds if `End` has been read, else starts the
next chunk (R192). -/
def streamOffer (src : KeySource) (cnt : Nat) (last : Bool) (bytes : List Byte) (s : State) : State :=
  match bytes with
  | v :: rest => s.wait (.write src cnt last v rest)
  | [] => if last then s.rsp .none cnt else s.wait (.read src cnt [])

/-- The bytes a chunk writes: `IB[i] xor KB[i]` (R192). -/
def xorBytes (ib kb : List Byte) : List Byte := List.zipWith (· ^^^ ·) ib kb

/-! ## Producing bytes -/

/-- The part of `ProduceByte` before any draw (R176): `IPB` evolutions. -/
def State.evolved (s : State) : State := s.withRegs (evolveTimes s.regs.ipb.toNat s.regs)

/-- The part of `ProduceByte` after every draw (R176): `KACC` and `PHASE`. -/
def State.produced (s : State) : State := s.withRegs (afterByte s.regs)

/-- `KeyFill(INT, k)` (R191) from the point where `kb` is filled and `left` bytes are missing; then the writes. With
`ENT = 0` no byte needs a draw; with `ENT = 1` each waits for its `GATE2` answer. -/
def keyBytes (cnt : Nat) (last : Bool) (ib : List Byte) : Nat → List Byte → State → State
  | 0, kb, s => streamOffer .int cnt last (xorBytes ib kb) s
  | left + 1, kb, s =>
    if s.regs.ent then s.evolved.ask .gate2 .gate2 (.key left cnt last ib kb)
    else keyBytes cnt last ib left (kb ++ [extractByte s.evolved.regs]) s.evolved.produced

/-- What the finished byte is for. -/
def useByte (u : ByteUse) (v : Byte) (s : State) : State :=
  match u with
  | .genb => s.rsp .none v.toNat
  | .fill left cnt => fillOffer left cnt v s
  | .key left cnt last ib kb => keyBytes cnt last ib left (kb ++ [v]) s

/-- The end of `ProduceByte` (R176): extract, advance `KACC`, enter RUNNING, hand the byte on. -/
def finishByte (u : ByteUse) (s : State) : State := useByte u (extractByte s.regs) s.produced

/-- `ProduceByte` for `GENB` and `FILL` (R176): the evolutions; then the `GATE2` draw if `ENT = 1`. -/
def startByte (u : ByteUse) (s : State) : State :=
  if s.regs.ent then s.evolved.ask .gate2 .gate2 u else finishByte u s.evolved

/-- The trial loop of `Enhance` (R175) with `left` trials to go; after the last the byte is finished. -/
def nextTrial (u : ByteUse) (left : Nat) (s : State) : State :=
  match left with
  | 0 => finishByte u s
  | left + 1 => s.ask .index (.trial left) u

/-- What a draw answer `d` decides (R175, R176); a gate opens if bit 0 of `d` is set (R104). -/
def drawAnswer (p : DrawPoint) (u : ByteUse) (d : Word) (s : State) : State :=
  match p with
  | .gate2 => if d.getLsbD 0 then s.ask .gate1 .gate1 u else finishByte u s
  | .gate1 => if d.getLsbD 0 then s.ask .index .flip u else nextTrial u s.regs.trials s
  | .flip => nextTrial u s.regs.trials (s.withRegs (flipCell d s.regs))
  | .trial left => nextTrial u left (s.withRegs (trialCell d s.regs))

/-! ## `FILL` -/

/-- The loop head of `FILL` with `left` bytes to go and `cnt` written (R179). -/
def fillNext (left cnt : Nat) (s : State) : State :=
  match left with
  | 0 => s.rsp .none cnt
  | left + 1 => startByte (.fill left cnt) s

/-- `FILL` after the sink's answer (R179). -/
def fillAnswer (left cnt : Nat) (a : Answer) (s : State) : State :=
  match a with
  | .ioerr => s.raise .io
  | .ok => fillNext left (cnt + 1) s

/-! ## `Stream` -/

/-- `KeyFill(src, m)` for the chunk `ib` (R191): the internal generator produces the bytes; the external one is sent
one request. -/
def keyFill (src : KeySource) (cnt : Nat) (last : Bool) (ib : List Byte) (s : State) : State :=
  match src with
  | .int => keyBytes cnt last ib ib.length [] s
  | .ext => (s.emit (.krq (keyCountWord ib.length))).wait (.keyIn cnt last ib [])

/-- The reading loop of `Stream` for one symbol (R192): a chunk is closed by `End` or by being full. -/
def readSymbol (src : KeySource) (cnt : Nat) (ib : List Byte) (d : Symbol) (s : State) : State :=
  match d with
  | .ioErr => s.raise .io
  | .endFrame => if ib = [] then s.rsp .none cnt else keyFill src cnt true ib s
  | .data v =>
    if ib.length + 1 < s.build.chunk then s.wait (.read src cnt (ib ++ [v]))
    else keyFill src cnt false (ib ++ [v]) s

/-- One key byte from `KIN` (R191, `src = EXT`). -/
def keyByte (cnt : Nat) (last : Bool) (ib kb : List Byte) (v : Byte) (s : State) : State :=
  if kb.length + 1 < ib.length then s.wait (.keyIn cnt last ib (kb ++ [v]))
  else streamOffer .ext cnt last (xorBytes ib (kb ++ [v])) s

/-- The progress event after the byte that makes `cnt` bytes (R192, R196). -/
def progress (cnt : Nat) (s : State) : State :=
  if cnt % progGran = 0 then s.emit (.evt (BitVec.ofNat 64 cnt)) else s

/-- The writing loop of `Stream` after the sink's answer (R192). -/
def writeAnswer (src : KeySource) (cnt : Nat) (last : Bool) (rest : List Byte) (a : Answer) (s : State) : State :=
  match a with
  | .ioerr => s.raise .io
  | .ok => streamOffer src (cnt + 1) last rest (progress (cnt + 1) s)

/-! ## Running a command as far as the offered items allow -/

/-- Take one item from the port the command waits on and go on to the next wait or the response; nothing if that port
has no item. -/
def advance (j : Job) (s : State) : Option State :=
  match j with
  | .seedRaw cnt => s.takeDin.map fun t => seedRawSymbol cnt t.1 t.2
  | .draw p u => s.takeDraw.map fun t => drawAnswer p u t.1 t.2
  | .fillOut left cnt v => (s.takeAnswer v).map fun t => fillAnswer left cnt t.1 t.2
  | .read src cnt ib => s.takeDin.map fun t => readSymbol src cnt ib t.1 t.2
  | .keyIn cnt last ib kb => s.takeKey.map fun t => keyByte cnt last ib kb t.1 t.2
  | .write src cnt last v rest => (s.takeAnswer v).map fun t => writeAnswer src cnt last rest t.1 t.2

/-- At most `k` advances of the command in progress. -/
def runFor : Nat → State → State
  | 0, s => s
  | k + 1, s =>
    match s.job with
    | none => s
    | some j =>
      match advance j s with
      | none => s
      | some t => runFor k t

/-- Run the command in progress until it has responded or waits on a port with no item. Every advance takes one item,
so the number of items offered is enough advances. -/
def State.run (s : State) : State := runFor s.ports.queued s

end Sys2Proof.Machine
end

