-- ==== Sys2Proof/Machine/Generator.lean ====
section
/-! DEFINITION. The generator commands (spec/43_generator.md): `WARMUP`, `GENB`, `FILL`. -/

namespace Sys2Proof.Machine

/-- `WARMUP` (R177): `WARM` evolutions, no output, no draw. -/
def execWarmup (s : State) : Host.Outcome State Fault Refusal :=
  guarded .warmup
    (fun s =>
      (s.withRegs { evolveTimes s.regs.warm.toNat s.regs with phase := .warmed }).rsp .none 0) s

/-- `GENB` (R178): one byte, returned in the response. -/
def execGenb (s : State) : Host.Outcome State Fault Refusal :=
  guarded .genb (fun s => (startByte .genb s).run) s

/-- `FILL len` (R179): `len` bytes, offered one by one on `DOUT`. -/
def execFill (len : Imm) (s : State) : Host.Outcome State Fault Refusal :=
  guarded (.fill len) (fun s => (fillNext len.toNat 0 s).run) s

end Sys2Proof.Machine
end

