-- ==== Sys2Proof/Machine/Seeder.lean ====
section
/-! DEFINITION. The seeding commands (spec/42_seeder.md): `SEED`, `SEEDRAW`, `MIX`. -/

namespace Sys2Proof.Machine

/-- The check both seeding commands begin with (R152, R154): the first failing code of `Validate` faults, before the
grid is touched and before any symbol is taken (R243). -/
def validated (body : State → State) (s : State) : State :=
  if validate s.build s.regs = .none then body s else s.raise (validate s.build s.regs)

/-- `SEED` (R152). -/
def execSeed (s : State) : Host.Outcome State Fault Refusal :=
  guarded .seed
    (validated fun s => (s.withRegs { seededRegs s.regs with grid := seedGrid s.regs }).rsp .none 0) s

/-- `SEEDRAW` (R154): from the check to the first wait for a symbol, then as far as the symbols offered allow. -/
def execSeedraw (s : State) : Host.Outcome State Fault Refusal :=
  guarded .seedraw
    (validated fun s => ((s.withRegs { s.regs with grid := [] }).wait (.seedRaw 0)).run) s

/-- `MIX` (R153). -/
def execMix (s : State) : Host.Outcome State Fault Refusal :=
  guarded .mix (fun s => (s.withRegs { s.regs with grid := mixGrid s.regs }).rsp .none 0) s

end Sys2Proof.Machine
end

