-- ==== Sys2Proof/Machine/Stream.lean ====
section
/-! DEFINITION. The XOR byte stream processor (spec/44_stream.md): `XSTREAM`, `XSTREAMX`. -/

namespace Sys2Proof.Machine

/-- `Stream(src)` (R192): begins by waiting for the first symbol with an empty chunk and nothing written. -/
def stream (src : KeySource) (s : State) : State := (s.wait (.read src 0 [])).run

/-- `XSTREAM` (R193): the internal keystream. -/
def execXstream (s : State) : Host.Outcome State Fault Refusal := guarded .xstream (stream .int) s

/-- `XSTREAMX` (R194): an external keystream. -/
def execXstreamx (s : State) : Host.Outcome State Fault Refusal := guarded .xstreamx (stream .ext) s

end Sys2Proof.Machine
end

