-- ==== Sys2Proof/Machine/SystemCommands.lean ====
section
/-! DEFINITION. The system and read-back commands (spec/45_system_readback.md): `NOP`, `SRST`, `RDREG`, `RDCELL`. -/

namespace Sys2Proof.Machine

/-- `NOP` (R205): no effect but its response. -/
def execNop (s : State) : Host.Outcome State Fault Refusal := guarded .nop (fun s => s.rsp .none 0) s

/-- `SRST` (R206): acts in every phase, FAULT included (R250 a). -/
def execSrst (s : State) : Host.Outcome State Fault Refusal := .next s.softReset

/-- `RDREG num` (R208): the value with the sticky `ERR` in the top byte, in FAULT too (R250 b). A number that names no
register is `E_RANGE`, or dropped in FAULT. -/
def execRdreg (num : Imm) (s : State) : Host.Outcome State Fault Refusal :=
  match s.register num.toNat with
  | some v => .next (s.rsp s.regs.err v)
  | none => .next (if s.regs.phase = .fault then s.dropped else s.raise .range)

/-- `RDCELL idx` (R209): the address is used as it stands, without reduction modulo `N`. -/
def execRdcell (idx : Imm) (s : State) : Host.Outcome State Fault Refusal :=
  guarded (.rdcell idx)
    (fun s =>
      if idx.toNat ≥ s.regs.n then s.raise .range
      else s.rsp .none (cell s.regs.grid idx.toNat).toNat) s

end Sys2Proof.Machine
end

