-- ==== Sys2Proof/Machine/Dispatch.lean ====
section
/-! DEFINITION. The meaning of every command, one arm per constructor. -/

namespace Sys2Proof.Machine

-- The meanings, in the order of spec/opcode_table.json.
def exec (i : Instr) (s : State) : Host.Outcome State Fault Refusal :=
  match i with
  | .nop => Sys2Proof.Machine.execNop s
  | .srst => Sys2Proof.Machine.execSrst s
  | .setn n => Sys2Proof.Machine.execSetn n s
  | .rsclr => Sys2Proof.Machine.execRsclr s
  | .rspush imm => Sys2Proof.Machine.execRspush imm s
  | .setc1 v => Sys2Proof.Machine.execSetc1 v s
  | .setc2 v => Sys2Proof.Machine.execSetc2 v s
  | .setipb v => Sys2Proof.Machine.execSetipb v s
  | .setwarm v => Sys2Proof.Machine.execSetwarm v s
  | .setmode imm => Sys2Proof.Machine.execSetmode imm s
  | .setxi sel idx => Sys2Proof.Machine.execSetxi sel idx s
  | .setdlen v => Sys2Proof.Machine.execSetdlen v s
  | .lddig pos val => Sys2Proof.Machine.execLddig pos val s
  | .seed => Sys2Proof.Machine.execSeed s
  | .seedraw => Sys2Proof.Machine.execSeedraw s
  | .mix => Sys2Proof.Machine.execMix s
  | .warmup => Sys2Proof.Machine.execWarmup s
  | .genb => Sys2Proof.Machine.execGenb s
  | .fill len => Sys2Proof.Machine.execFill len s
  | .xstream => Sys2Proof.Machine.execXstream s
  | .xstreamx => Sys2Proof.Machine.execXstreamx s
  | .reval nb rule => Sys2Proof.Machine.execReval nb rule s
  | .revalc nb rule => Sys2Proof.Machine.execRevalc nb rule s
  | .rdreg num => Sys2Proof.Machine.execRdreg num s
  | .rdcell idx => Sys2Proof.Machine.execRdcell idx s

end Sys2Proof.Machine
end

