-- ==== Sys2Proof/Machine/Sequencer.lean ====
section
/-! DEFINITION. What the block does in one step while `RST` is released: go on with the command in progress, or take the
next command word (spec/20_memory.md R73). -/

namespace Sys2Proof.Machine

/-- A command in progress goes on as far as the items offered allow; otherwise the next word of `CMD` is taken, decoded
and run (R73: one command at a time, completely, in the order of arrival), and a word that is no command is `E_ILLEGAL`
(R99). With nothing to do the block waits (R261). -/
def proceed (s : State) : Host.Outcome State Fault Refusal :=
  match s.job with
  | some _ => .next s.run
  | none =>
    match s.takeCmd with
    | none => .next s
    | some (w, t) =>
      match decode w with
      | .ok i => exec i t
      | .error _ => .next t.illegalCommand

/-- What the block does where `RST` is asserted after `k` more items (R265). -/
def proceedUntilReset (k : Nat) (s : State) : Host.Outcome State Fault Refusal :=
  match proceed s with
  | .next t => .next (s.resetWithin k t)
  | .fault r => .fault r
  | .refused r => .refused r

end Sys2Proof.Machine
end

