-- ==== Sys2Proof/Machine/Step.lean ====
section
/-! DEFINITION. One step of the block, and where the host places a command for the next step. -/

namespace Sys2Proof.Machine

/-- One step: a block whose `RST` is asserted is reset (R265); otherwise it proceeds with its command or takes the next,
and `RST` may be asserted at any item of that. -/
def step (s : State) : Host.Outcome State Fault Refusal :=
  match s.ports.rst with
  | .released => proceed s
  | .asserted => .next s.hardReset
  | .assertedAfter k => proceedUntilReset k s

/-- The state with the command word `w` (of `nbits` bits, the bits above 0) where the next step takes it: at the head
of `CMD`, no command in progress, `RST` released. -/
def State.withFetchWord (s : State) (nbits w : Nat) : State :=
  s.offerCommand (BitVec.ofNat 32 (w % 2 ^ nbits))

end Sys2Proof.Machine
end

