-- ==== Sys2Proof/Machine/Reference.lean ====
section
/-! DEFINITION. The pseudocode of the rules as it stands, uncut, over the items the environment has already offered:
`Draw`, `Enhance`, `ProduceByte`, `GENB`, `FILL`, `SEEDRAW`, `KeyFill`, `Stream`. The answer is `none` where an item is
missing and the block would wait for it. The machine does not call these functions: statements compare the resumable
machine of Machine/Resume.lean with them. -/

namespace Sys2Proof.Machine.Ref

/-- `Draw(kind)` (R15): send the kind on `DRQ`, take the answer from `DRW`. -/
def draw (k : DrawKind) (s : State) : Option (Word × State) := (s.emit (.drq k)).takeDraw

/-- `for t in 1 .. k: r <- Draw(INDEX) mod N; GRID[r] <- GRID[r] xor GRID[(r + floor(N/2)) mod N]` (R175). -/
def trials : Nat → State → Option State
  | 0, s => some s
  | k + 1, s => (draw .index s).bind fun x => trials k (x.2.withRegs (trialCell x.1 x.2.regs))

/-- The single-cell flip of `Enhance`, if its gate opens (R175). -/
def flip (gate : Word) (s : State) : Option State :=
  if gate.getLsbD 0 then (draw .index s).map fun x => x.2.withRegs (flipCell x.1 x.2.regs) else some s

/-- `Enhance()` (R175). -/
def enhance (s : State) : Option State :=
  (draw .gate1 s).bind fun g => (flip g.1 g.2).bind fun t => trials t.regs.trials t

/-- The entropy injection of one byte (R176): nothing with `ENT = 0`; else `Enhance` if the `GATE2` draw opens. -/
def inject (s : State) : Option State :=
  if s.regs.ent then (draw .gate2 s).bind fun g => if g.1.getLsbD 0 then enhance g.2 else some g.2 else some s

/-- `ProduceByte()` (R176). -/
def produceByte (s : State) : Option (Byte × State) :=
  (inject s.evolved).map fun t => (extractByte t.regs, t.produced)

/-- `GENB` (R178). -/
def genb (s : State) : Option State := (produceByte s).map fun x => x.2.rsp .none x.1.toNat

/-- The loop of `FILL` with `left` bytes to go and `cnt` written (R179). -/
def fill : Nat → Nat → State → Option State
  | 0, cnt, s => some (s.rsp .none cnt)
  | left + 1, cnt, s =>
    (produceByte s).bind fun x =>
      (x.2.takeAnswer x.1).bind fun y =>
        match y.1 with
        | .ioerr => some (y.2.raise .io)
        | .ok => fill left (cnt + 1) y.2

/-- The loop of `SEEDRAW` (R154), at most `k` symbols long. -/
def seedRaw : Nat → Nat → State → Option State
  | 0, _, _ => none
  | k + 1, cnt, s =>
    s.takeDin.bind fun x =>
      match x.1 with
      | .ioErr => some (x.2.raise .io)
      | .endFrame =>
        if cnt ≠ x.2.regs.seedBytes then some (x.2.raise .seedLen)
        else some ((x.2.withRegs { seededRegs x.2.regs with degr := true }).rsp .none 0)
      | .data v =>
        seedRaw k (cnt + 1)
          (if cnt < x.2.regs.seedBytes then x.2.withRegs (loadCells v x.2.regs) else x.2)

/-- `KeyFill(INT, k)` (R191), after the key bytes `kb`. -/
def keyFillInt : Nat → List Byte → State → Option (List Byte × State)
  | 0, kb, s => some (kb, s)
  | k + 1, kb, s => (produceByte s).bind fun x => keyFillInt k (kb ++ [x.1]) x.2

/-- The `k` bytes of `KeyReq(k)` from `KIN` (R15), after the key bytes `kb`. -/
def keyBytesExt : Nat → List Byte → State → Option (List Byte × State)
  | 0, kb, s => some (kb, s)
  | k + 1, kb, s => s.takeKey.bind fun x => keyBytesExt k (kb ++ [x.1]) x.2

/-- `KeyFill(src, k)` (R191). -/
def keyFill (src : KeySource) (k : Nat) (s : State) : Option (List Byte × State) :=
  match src with
  | .int => keyFillInt k [] s
  | .ext => keyBytesExt k [] (s.emit (.krq (keyCountWord k)))

/-- The reading loop of `Stream` (R192), with room for `room` more bytes after `ib`. It gives the chunk and whether
`End` was read; `.error t` is the command ended by `fault(E_IO)` in the state `t`. -/
def readChunk : Nat → List Byte → State → Option (Except State (List Byte × Bool × State))
  | 0, ib, s => some (.ok (ib, false, s))
  | room + 1, ib, s =>
    s.takeDin.bind fun x =>
      match x.1 with
      | .ioErr => some (.error (x.2.raise .io))
      | .endFrame => some (.ok (ib, true, x.2))
      | .data v => readChunk room (ib ++ [v]) x.2

/-- The writing loop of `Stream` (R192). -/
def writeChunk : List Byte → Nat → State → Option (Except State (Nat × State))
  | [], cnt, s => some (.ok (cnt, s))
  | v :: rest, cnt, s =>
    (s.takeAnswer v).bind fun x =>
      match x.1 with
      | .ioerr => some (.error (x.2.raise .io))
      | .ok => writeChunk rest (cnt + 1) (progress (cnt + 1) x.2)

/-- The middle of one pass of `Stream` (R192): the key fill and the writes of a chunk that is not empty. -/
def processChunk (src : KeySource) (ib : List Byte) (cnt : Nat) (s : State) :
    Option (Except State (Nat × State)) :=
  if ib = [] then some (.ok (cnt, s))
  else (keyFill src ib.length s).bind fun x => writeChunk (xorBytes ib x.1) cnt x.2

/-- The chunk loop of `Stream(src)` (R192), at most `k` passes long. -/
def streamLoop (src : KeySource) : Nat → Nat → State → Option State
  | 0, _, _ => none
  | k + 1, cnt, s =>
    (readChunk s.build.chunk [] s).bind fun c =>
      match c with
      | .error t => some t
      | .ok (ib, last, u) =>
        (processChunk src ib cnt u).bind fun d =>
          match d with
          | .error t => some t
          | .ok (cnt', v) => if last then some (v.rsp .none cnt') else streamLoop src k cnt' v

/-- `Stream(src)` (R192). Every pass takes a symbol, so as many passes as symbols offered are enough. -/
def stream (src : KeySource) (s : State) : Option State := streamLoop src s.ports.din.length 0 s

end Sys2Proof.Machine.Ref
end

