-- ==== Sys2Proof/Safety.lean ====
section
/-! DEFINITION. The invariants of the block (spec/10_state.md R24, R28, R29, R37, R39, R43; spec/43_generator.md R181) and
what counts as a safe run, in the terms the statements use. -/

namespace Sys2Proof.Machine

/-- No error has been detected: the run so far is fault-free (R23, R24). -/
abbrev Unfaulted (s : State) : Prop := s.regs.phase ≠ .fault

/-- `ERR ≠ 0` if and only if `PHASE = FAULT` (R24). -/
abbrev StatusOk (r : Regs) : Prop := r.err ≠ .none ↔ r.phase = .fault

/-- The byte stores are in canonical form and hold nothing at or above their capacity (R28, R38). -/
abbrev StoresOk (b : Build) (r : Regs) : Prop :=
  (r.rs.wf ∧ ∀ c ∈ r.rs, c.1 < b.lmax) ∧ (r.dig.wf ∧ ∀ c ∈ r.dig, c.1 < b.dmax)

/-- The ranges that hold in every phase: `RLEN ≤ LMAX` (R28), `CUR < max(RLEN, 1)` (R29), `KACC < max(N, 1)` (R39),
`1 ≤ DLEN ≤ DMAX` (R37). -/
abbrev RangesOk (b : Build) (r : Regs) : Prop :=
  r.rlen.toNat ≤ b.lmax ∧ r.cur.toNat < max r.rlen.toNat 1 ∧ r.kacc.toNat < max r.n 1 ∧
    (1 ≤ r.dlen.toNat ∧ r.dlen.toNat ≤ b.dmax)

/-- What `Validate` has established (R43, R150). -/
abbrev ConfigOk (b : Build) (r : Regs) : Prop :=
  (64 ≤ r.n ∧ r.n ≤ b.nmax) ∧ 1 ≤ r.rlen.toNat ∧ 1 ≤ r.ipb.toNat ∧
    (r.xmode = true → ∀ k : Fin 8, (r.xi[k]).toNat < r.n)

/-- The life cycle: before seeding and right after it the cursor and the accumulator are 0 (R49, R181) and, in IDLE,
`DEGR` is 0 (R26); in SEEDED, WARMED and RUNNING the configuration is valid and every cell `0..N-1` holds a bit
(R43). -/
abbrev LifeOk (b : Build) (r : Regs) : Prop :=
  (r.phase = .idle → r.cur = 0#8 ∧ r.kacc = 0#20 ∧ r.degr = false) ∧
    (r.phase = .seeded → r.cur = 0#8 ∧ r.kacc = 0#20) ∧
    (r.phase.active = true → ConfigOk b r ∧ r.grid.length = r.n)

/-- The locals of a byte in production: a key byte belongs to a chunk of at most `CHUNK` bytes (R45). -/
abbrev UseOk (b : Build) : ByteUse → Prop
  | .genb => True
  | .fill left cnt => left + cnt < 1048575
  | .key left _ _ ib kb => kb.length + left + 1 = ib.length ∧ ib.length ≤ b.chunk

/-- The command in progress is one the phase allows, and its locals are within their bounds (R45, R108). -/
abbrev JobOk (b : Build) (r : Regs) : Job → Prop
  | .seedRaw cnt => r.phase = .idle ∧ ConfigOk b r ∧ r.grid.length = min r.n (8 * min cnt r.seedBytes)
  | .draw _ u => r.phase.producing = true ∧ r.ent = true ∧ UseOk b u
  | .fillOut left cnt _ => r.phase.producing = true ∧ left + cnt < 1048575
  | .read src _ ib => r.phase.unfaulted = true ∧ (src = .int → r.phase.producing = true) ∧ ib.length < b.chunk
  | .keyIn _ _ ib kb => r.phase.unfaulted = true ∧ kb.length < ib.length ∧ ib.length ≤ b.chunk
  | .write src _ _ _ rest => r.phase.unfaulted = true ∧ (src = .int → r.phase.producing = true) ∧ rest.length < b.chunk

/-- The invariant of the block: what holds of a state that a run from reset reaches. -/
abbrev BlockInv (s : State) : Prop :=
  s.build.wf ∧ StatusOk s.regs ∧ StoresOk s.build s.regs ∧ RangesOk s.build s.regs ∧ LifeOk s.build s.regs ∧
    ∀ j ∈ s.job, JobOk s.build s.regs j

/-- The configuration registers, which are frozen from seeding to reset (R43, R271). -/
abbrev SameConfig (r q : Regs) : Prop :=
  (q.size = r.size ∧ q.rs = r.rs ∧ q.rlen = r.rlen) ∧ (q.c1 = r.c1 ∧ q.c2 = r.c2 ∧ q.ipb = r.ipb) ∧
    (q.warm = r.warm ∧ q.mode = r.mode ∧ q.xi = r.xi ∧ q.dlen = r.dlen)

/-- The phase transitions of R165, `s` to `t` in any number of them (a step may run one command). -/
def phaseReach : Phase → Phase → Bool
  | .idle, .idle => true
  | .idle, .seeded => true
  | .idle, .warmed => false
  | .idle, .running => false
  | .idle, .fault => true
  | .seeded, .idle => true
  | .seeded, .seeded => true
  | .seeded, .warmed => true
  | .seeded, .running => false
  | .seeded, .fault => true
  | .warmed, .idle => true
  | .warmed, .seeded => false
  | .warmed, .warmed => true
  | .warmed, .running => true
  | .warmed, .fault => true
  | .running, .idle => true
  | .running, .seeded => false
  | .running, .warmed => false
  | .running, .running => true
  | .running, .fault => true
  | .fault, .idle => true
  | .fault, .seeded => false
  | .fault, .warmed => false
  | .fault, .running => false
  | .fault, .fault => true

/-! ## The terms the statements use for a command's outcome -/

/-- The command has ended with the registers `r` and the response word `w`; nothing else has changed. -/
def State.answered (s : State) (r : Regs) (w : Word) : State :=
  { build := s.build, regs := r, ports := { s.ports with trace := .rsp w :: s.ports.trace }, job := none }

/-- The command has ended with `fault(c)` (R240): `ERR` and `PHASE` and the response, nothing else. -/
def State.faulted (s : State) (c : Err) : State :=
  s.answered { s.regs with err := c, phase := .fault } (c.code ++ 0#24)

/-- The registers after `ProduceByte` with `ENT = 0`, a pure function of the registers (R176). -/
def genStep (r : Regs) : Regs := afterByte (evolveTimes r.ipb.toNat r)

/-- The byte `ProduceByte` returns with `ENT = 0` (R176): the extraction reads the grid after the evolutions. -/
def genByte (r : Regs) : Byte := extractByte (evolveTimes r.ipb.toNat r)

/-- The next `k` keystream bytes with `ENT = 0`, produced one after another (R76, R180). -/
def keystream (k : Nat) (r : Regs) : List Byte := (List.range k).map fun j => genByte (genStep^[j] r)

/-- The events of a stream of `k` bytes (R196): one at each positive multiple of `PROG_GRAN`, with the count. -/
def progressCounts (k : Nat) : List (BitVec 64) :=
  (List.range (k / progGran)).map fun j => BitVec.ofNat 64 ((j + 1) * progGran)

/-- The sizes of the key requests for `k` bytes (R194): `CHUNK, CHUNK, …, CHUNK, r`, the remainder only if there is
one. -/
def requestSizes (chunk k : Nat) : List Word :=
  List.replicate (k / chunk) (keyCountWord chunk) ++ if k % chunk = 0 then [] else [keyCountWord (k % chunk)]

/-- The frame of the data bytes `bytes` on `DIN`: the bytes, then `End` (R105). -/
def frameOf (bytes : List Byte) : List Symbol := bytes.map .data ++ [.endFrame]

/-- The environment offers more items behind those already queued. -/
def State.feed (s : State) (din : List Symbol) (sink : List Answer) (kin : List Byte) (drw : List Word) : State :=
  { s with
    ports :=
      { s.ports with
        din := s.ports.din ++ din, sink := s.ports.sink ++ sink, kin := s.ports.kin ++ kin,
        drw := s.ports.drw ++ drw } }

/-- Other data values on `DIN`, the same framing. -/
def Symbol.mapData (f : Byte → Byte) : Symbol → Symbol
  | .data v => .data (f v)
  | .endFrame => .endFrame
  | .ioErr => .ioErr

/-- The state with other data values queued on `DIN`. -/
def State.mapDin (f : Byte → Byte) (s : State) : State :=
  { s with ports := { s.ports with din := s.ports.din.map (Symbol.mapData f) } }

/-- The state with another digest buffer. -/
def State.withDig (m : Memory) (s : State) : State := { s with regs := { s.regs with dig := m } }

/-- The state of a block built with another `CHUNK`. -/
def State.withChunk (c : Nat) (s : State) : State := { s with build := { s.build with chunk := c } }

/-- The state with these symbols queued on `DIN`, in place of those that were. -/
def State.withFrames (din : List Symbol) (s : State) : State := { s with ports := { s.ports with din := din } }

/-- The state with these answers of the sink, in place of those that were. -/
def State.withAnswers (sink : List Answer) (s : State) : State := { s with ports := { s.ports with sink := sink } }

/-- The command word at the head of `CMD` has crossed the port; the words behind it are `rest`. -/
def State.accepted (s : State) (w : Word) (rest : List Word) : State :=
  { s with ports := { s.ports with cmd := rest, trace := .cmd w :: s.ports.trace } }

/-- The port the command in progress waits on has no item (R15, R261). -/
def waitsInVain (j : Job) (p : Ports) : Prop :=
  match j with
  | .seedRaw _ => p.din = []
  | .draw _ _ => p.drw = []
  | .fillOut _ _ _ => p.sink = []
  | .read _ _ _ => p.din = []
  | .keyIn _ _ _ _ => p.kin = []
  | .write _ _ _ _ _ => p.sink = []

/-- The phases in which a command is allowed, by its mnemonic, as the rows of R108 print them. -/
def allowedPhases (mnemonic : String) : List Phase :=
  if mnemonic ∈ ["NOP", "SRST", "RDREG", "REVAL", "REVALC", "XSTREAMX"] then [.idle, .seeded, .warmed, .running]
  else if mnemonic ∈ ["SETN", "RSCLR", "RSPUSH", "SETC1", "SETC2", "SETIPB", "SETWARM", "SETMODE", "SETXI", "SETDLEN"]
  then [.idle]
  else if mnemonic = "LDDIG" then [.idle, .seeded]
  else if mnemonic ∈ ["SEED", "SEEDRAW"] then [.idle]
  else if mnemonic ∈ ["MIX", "WARMUP"] then [.seeded]
  else if mnemonic ∈ ["GENB", "FILL", "XSTREAM"] then [.warmed, .running]
  else if mnemonic = "RDCELL" then [.seeded, .warmed, .running]
  else []

/-- The bytes a sink that accepts everything has seen cross `DOUT`, as items of the trace, the newest first. -/
def sentBytes (bytes : List Byte) : List Item := bytes.reverse.map fun v => .dout v .ok

/-- The symbols of a frame as items of the trace, the newest first. -/
def takenSymbols (symbols : List Symbol) : List Item := symbols.reverse.map .din

end Sys2Proof.Machine
end

