-- ==== Sys2Proof/Certificates/Slice0/Obligations.lean ====
section
/-! DEFINITION. The statements for the provers. They are grouped as the spec is: encoding, steps and phases, rule engine,
configuration, seeding, generator, streams, read-back, faults and resets, and the properties of whole runs. Every
statement whose conclusion is an equation `exec … = .next …` also says that its command completes there. -/

open Sys2Proof Sys2Proof.Machine

/-! ## Encoding (spec/30_encoding.md) -/

/-- R90 to R96: the word of every well-formed command decodes to that command. -/
def Obligations.DecodeOfEncode : Prop :=
  ∀ i : Instr, i.wellFormed = true → decode (encode i) = .ok i

/-- R90 to R97: a word that decodes is the word of the command it decodes to, and that command is well formed. -/
def Obligations.EncodeOfDecode : Prop :=
  ∀ (w : Word) (i : Instr), decode w = .ok i → i.wellFormed = true ∧ encode i = w

/-- R96: a word encodes the command of a row if and only if `(w and mask) = match`. -/
def Obligations.DecodeFollowsOpcodeMap : Prop :=
  ∀ (row : OpcodeRow), row ∈ opcodeRows → ∀ w : Word,
    (∃ i : Instr, decode w = .ok i ∧ i.mnemonic = row.mnemonic) ↔ w &&& row.mask = row.pattern

/-- R97: a word matches one row or none, whatever the order of the rows, and it decodes exactly if it matches one. -/
def Obligations.WordMatchesAtMostOneRow : Prop :=
  ∀ w : Word,
    (opcodeRows.filter fun row => w &&& row.mask = row.pattern).length ≤ 1 ∧
      ((∃ i, decode w = .ok i) ↔ ∃ row ∈ opcodeRows, w &&& row.mask = row.pattern) ∧
      ∀ rows : List OpcodeRow, rows.Perm opcodeRows →
        (rows.find? fun row => w &&& row.mask = row.pattern) =
          opcodeRows.find? fun row => w &&& row.mask = row.pattern

/-- R98: the illegal commands are the words of the listed cases, and 231 opcodes are not assigned. -/
def Obligations.IllegalCommandsAreTheListedCases : Prop :=
  let opsZ : List Byte := [0x00, 0x01, 0x11, 0x20, 0x21, 0x22, 0x30, 0x31, 0x40, 0x41]
  let opsI : List Byte := [0x10, 0x12, 0x13, 0x14, 0x15, 0x16, 0x17, 0x18, 0x19, 0x32, 0x60, 0x61]
  let opsBR : List Byte := [0x1A, 0x50, 0x51]
  ((List.range 256).filter fun k => BitVec.ofNat 8 k ∉ opsZ ++ opsI ++ opsBR).length = 231 ∧
    ∀ w : Word,
      (∃ e, decode w = .error e) ↔
        opField w ∉ opsZ ++ opsI ++ opsBR ∨
          (opField w ∈ opsZ ∧ w.extractLsb' 0 24 ≠ 0#24) ∨
          (opField w = 0x1A#8 ∧ w.extractLsb' 16 8 ≠ 0#8) ∨
          ((opField w = 0x50#8 ∨ opField w = 0x51#8) ∧ w.extractLsb' 11 13 ≠ 0#13) ∨
          (opField w = 0x12#8 ∧ (w.extractLsb' 0 20).toNat > 255) ∨
          (opField w = 0x17#8 ∧ (w.extractLsb' 0 20).toNat > 3) ∨
          (opField w = 0x18#8 ∧ (w.extractLsb' 20 4).toNat > 7) ∨
          (opField w ∈ opsI ∧ opField w ≠ 0x18#8 ∧ w.extractLsb' 20 4 ≠ 0#4)

/-- The example words of the command rules (R131, R133, R138, R139, R142, R179, R193, R124, R125, R208, R209) decode to the
commands they are printed for, and two words of R241 are illegal; the names of the two reasons are the model's own
(DESIGN CHOICE, log entry 15). -/
def Obligations.ExampleWordsDecode : Prop :=
  decode 0x10000100#32 = .ok (.setn 256#20) ∧ decode 0x12000096#32 = .ok (.rspush 150#20) ∧
    decode 0x17000003#32 = .ok (.setmode 3#20) ∧ decode 0x183000C8#32 = .ok (.setxi 3#4 200#20) ∧
    decode 0x1A001F4F#32 = .ok (.lddig 31#8 0x4F#8) ∧ decode 0x32000010#32 = .ok (.fill 16#20) ∧
    decode 0x40000000#32 = .ok .xstream ∧ decode 0x5000011E#32 = .ok (.reval 1#3 30#8) ∧
    decode 0x51000796#32 = .ok (.revalc 7#3 150#8) ∧ decode 0x60000102#32 = .ok (.rdreg 0x102#20) ∧
    decode 0x6100003F#32 = .ok (.rdcell 63#20) ∧ decode 0xFFFFFFFF#32 = .error .unassignedOpcode ∧
    decode 0x40000001#32 = .error .mustBeZero

/-! ## Steps, phases and responses -/

/-- R73, R90: with no command in progress and `RST` released, a step takes the next word of `CMD` and runs the command
it decodes to. -/
def Obligations.StepRunsDecodedCommand : Prop :=
  ∀ (s : State) (w : Word) (rest : List Word) (i : Instr),
    s.ports.rst = .released → s.job = none → s.ports.cmd = w :: rest → decode w = .ok i →
      i.wellFormed = true ∧ step s = exec i (s.accepted w rest)

/-- R99: an illegal command faults with `E_ILLEGAL` and changes no other state; in FAULT it is dropped. -/
def Obligations.IllegalWordFaultsOrIsDropped : Prop :=
  ∀ (s : State) (w : Word) (rest : List Word) (e : Illegal),
    s.ports.rst = .released → s.job = none → s.ports.cmd = w :: rest → decode w = .error e →
      (s.regs.phase ≠ .fault → step s = .next ((s.accepted w rest).faulted .illegal)) ∧
        (s.regs.phase = .fault →
          step s = .next ((s.accepted w rest).answered s.regs (s.regs.err.code ++ 0#24)))

/-- R73, R258: a step takes at most one command word, whatever `RST` does, and none while a command is in progress or
`RST` is asserted. -/
def Obligations.OneCommandAtATime : Prop :=
  ∀ s t : State, step s = .next t →
    (t.ports.cmd = s.ports.cmd ∨ t.ports.cmd = s.ports.cmd.tail) ∧
      ((s.ports.rst = .asserted ∨ s.job ≠ none ∨ s.ports.cmd = []) → t.ports.cmd = s.ports.cmd) ∧
      ((s.ports.rst = .released ∧ s.job = none ∧ s.ports.cmd ≠ []) → t.ports.cmd = s.ports.cmd.tail)

/-- R15, R261, and log entry 5: a step ends at a response or at a wait on a port with no item; a block that waits so
does not change, whatever the number of steps. That a wait is a state in which a step changes nothing is the model's
choice. -/
def Obligations.CommandRunsToResponseOrWait : Prop :=
  ∀ s t : State, s.ports.rst = .released → step s = .next t →
    ∀ j : Job, t.job = some j → waitsInVain j t.ports ∧ step t = .next t

/-- R101: a step that ends a command puts exactly one response on `RSP`, after every other port activity of the step,
and its top byte is the value of `ERR` after the command; a step that leaves a command waiting, or has none to run,
puts none. -/
def Obligations.OneResponsePerCommand : Prop :=
  ∀ s t : State, BlockInv s → s.ports.rst = .released → step s = .next t →
    ∃ new : List Item, t.ports.trace = new ++ s.ports.trace ∧
      (t.job = none ∧ (s.job ≠ none ∨ s.ports.cmd ≠ []) →
        ∃ (payload : BitVec 24) (before : List Item),
          new = .rsp (t.regs.err.code ++ payload) :: before ∧ ∀ w, .rsp w ∉ before) ∧
      (t.job ≠ none ∨ (s.job = none ∧ s.ports.cmd = []) → ∀ w, .rsp w ∉ new)

/-- R108: in every non-FAULT phase a legal command that the table does not allow is answered `fault(E_PHASE)`, and one
that it allows does not fault so. In FAULT `SRST` acts (R206), `RDREG` of a register acts (R208), and the rest is dropped
with the response `{ERR, 0}` (R250). -/
def Obligations.PhaseTableDecides : Prop :=
  ∀ (i : Instr) (s : State), i.wellFormed = true →
    (s.regs.phase ≠ .fault → s.regs.phase ∉ allowedPhases i.mnemonic → exec i s = .next (s.faulted .phase)) ∧
      (s.regs.phase ∈ allowedPhases i.mnemonic → s.regs.err = .none →
        ∃ t, exec i s = .next t ∧ t.regs.err ≠ .phase) ∧
      (s.regs.phase = .fault →
        exec i s =
          .next
            (match i with
              | .srst => s.answered resetRegs 0#32
              | .rdreg num =>
                match s.register num.toNat with
                | some v => s.answered s.regs (s.regs.err.code ++ BitVec.ofNat 24 v)
                | none => s.answered s.regs (s.regs.err.code ++ 0#24)
              | _ => s.answered s.regs (s.regs.err.code ++ 0#24)))

/-- R95, R98: an operand out of range makes an illegal word, never the word of another command. What `exec` does with such
a command is the model's convention (DEDUCED from R241 and R251, log entry 9), since no word decodes to it: outside FAULT
it faults with `E_ILLEGAL` before the phase and every other check. -/
def Obligations.IllFormedCommandIsIllegal : Prop :=
  ∀ (i : Instr) (s : State), i.wellFormed = false →
    (∃ e, decode (encode i) = .error e) ∧ (s.regs.phase ≠ .fault → exec i s = .next (s.faulted .illegal))

/-- R165: no transition of `PHASE` but those of the table, in one step. -/
def Obligations.PhaseTransitionsAreTheTable : Prop :=
  ∀ s t : State, BlockInv s → step s = .next t → phaseReach s.regs.phase t.regs.phase = true

/-- R165: which command can bring the block into a phase it was not in. -/
def Obligations.PhaseChangesHaveTheirCause : Prop :=
  ∀ (i : Instr) (s t : State), exec i s = .next t → t.regs.phase ≠ s.regs.phase →
    (t.regs.phase = .idle → i = .srst) ∧
      (t.regs.phase = .seeded → s.regs.phase = .idle ∧ (i = .seed ∨ i = .seedraw)) ∧
      (t.regs.phase = .warmed → s.regs.phase = .seeded ∧ i = .warmup) ∧
      (t.regs.phase = .running →
        s.regs.phase = .warmed ∧ (i = .genb ∨ (∃ len, 1 ≤ len.toNat ∧ i = .fill len) ∨ i = .xstream)) ∧
      (t.regs.phase = .fault → i ≠ .srst ∧ t.job = none)

/-- R24, R28, R29, R37, R39, R43, R45: the invariant of the block is kept by every step, from every state that has it,
whatever the environment offers. -/
def Obligations.StepKeepsBlockInvariant : Prop :=
  ∀ s t : State, BlockInv s → step s = .next t → BlockInv t

/-- The invariant holds right after reset, in every build the spec allows. The reset state itself has the grid that the
model's log entry 3 chooses. -/
def Obligations.ResetMeetsBlockInvariant : Prop := ∀ b : Build, b.wf → BlockInv (State.resetOf b)

/-- R43, R271: from seeding to reset no step changes a configuration register, and no step changes the build. -/
def Obligations.ConfigurationIsFrozen : Prop :=
  ∀ s t : State, step s = .next t →
    t.build = s.build ∧
      (s.regs.phase.active = true → t.regs.phase ≠ .idle → SameConfig s.regs t.regs)

/-! ## The rule engine (spec/40_rule_engine.md) -/

/-- R121: the table form is the bit of the rule number that the neighbourhood code selects. -/
def Obligations.RuleEvalIsTheTableBit : Prop :=
  ∀ (left center right : Bool) (rule : Byte),
    (ruleEval left center right rule).toNat =
      rule.toNat / 2 ^ (left.toNat * 4 + center.toNat * 2 + right.toNat) % 2

/-- R126: the closed form and the table form agree, for every rule and every neighbourhood. -/
def Obligations.ClosedFormAgreesWithTable : Prop :=
  ∀ (rule : Byte) (a b c : Bool), ruleEvalClosed a b c rule = ruleEval a b c rule

/-- R124, R125, R127, R205: outside FAULT `REVAL` and `REVALC` answer bit `nb` of `rule`, `NOP` answers 0, and none of them
changes anything. -/
def Obligations.NopAndRuleCommandsOnlyAnswer : Prop :=
  ∀ (nb : BitVec 3) (rule : Byte) (s : State), s.regs.phase ≠ .fault →
    exec (.reval nb rule) s = .next (s.answered s.regs (BitVec.ofNat 32 (rule.toNat / 2 ^ nb.toNat % 2))) ∧
      exec (.revalc nb rule) s = .next (s.answered s.regs (BitVec.ofNat 32 (rule.toNat / 2 ^ nb.toNat % 2))) ∧
      exec .nop s = .next (s.answered s.regs 0#32)

/-! ## Configuration (spec/41_config.md) -/

/-- R130 to R132, R134 to R137: in IDLE each of the five commands writes its register with its operand, whatever the
value, and `RSCLR` empties the schedule and leaves its entries; each changes nothing else and answers 0. -/
def Obligations.RegisterCommandsWriteTheirRegister : Prop :=
  ∀ (v : Imm) (s : State), s.regs.phase = .idle →
    exec (.setn v) s = .next (s.answered { s.regs with size := v } 0#32) ∧
      exec (.setc1 v) s = .next (s.answered { s.regs with c1 := v } 0#32) ∧
      exec (.setc2 v) s = .next (s.answered { s.regs with c2 := v } 0#32) ∧
      exec (.setipb v) s = .next (s.answered { s.regs with ipb := v } 0#32) ∧
      exec (.setwarm v) s = .next (s.answered { s.regs with warm := v } 0#32) ∧
      exec .rsclr s = .next (s.answered { s.regs with rlen := 0#9, cur := 0#8 } 0#32)

/-- R138, R139: in IDLE `SETMODE` writes `XMODE` from bit 0 and `ENT` from bit 1 of its operand, and `SETXI` writes the
index register of its slot and no other. -/
def Obligations.ModeAndIndexCommandsWrite : Prop :=
  ∀ (imm idx : Imm) (sel : BitVec 4) (s : State), s.regs.phase = .idle →
    (imm.toNat ≤ 3 →
      ∃ m : BitVec 2, exec (.setmode imm) s = .next (s.answered { s.regs with mode := m } 0#32) ∧
        ({ s.regs with mode := m }).xmode = imm.getLsbD 0 ∧ ({ s.regs with mode := m }).ent = imm.getLsbD 1) ∧
      (sel.toNat ≤ 7 →
        ∃ xi : Vector Imm 8, exec (.setxi sel idx) s = .next (s.answered { s.regs with xi := xi } 0#32) ∧
          ∀ k : Fin 8, xi[k] = if k.val = sel.toNat then idx else s.regs.xi[k])

/-- R133: in IDLE `RSPUSH` appends its rule; a full schedule is `E_RANGE`. Every other entry of the store reads as
before. -/
def Obligations.RspushAppendsOrFaults : Prop :=
  ∀ (imm : Imm) (s : State), s.regs.phase = .idle → imm.toNat ≤ 255 → s.build.wf → s.regs.rs.wf →
    (s.regs.rlen.toNat < s.build.lmax →
      ∃ rs : Memory,
        exec (.rspush imm) s =
            .next (s.answered { s.regs with rs := rs, rlen := BitVec.ofNat 9 (s.regs.rlen.toNat + 1) } 0#32) ∧
          (rs.read s.regs.rlen.toNat).toNat = imm.toNat ∧
          ∀ a, a ≠ s.regs.rlen.toNat → rs.read a = s.regs.rs.read a) ∧
      (s.regs.rlen.toNat = s.build.lmax → exec (.rspush imm) s = .next (s.faulted .range))

/-- R141: in IDLE `SETDLEN` writes a length from 1 to `DMAX`; any other is `E_DLEN` and nothing is written. -/
def Obligations.SetDlenWritesOrFaults : Prop :=
  ∀ (v : Imm) (s : State), s.regs.phase = .idle → s.build.wf →
    (1 ≤ v.toNat → v.toNat ≤ s.build.dmax →
      ∃ d : BitVec 9, d.toNat = v.toNat ∧ exec (.setdlen v) s = .next (s.answered { s.regs with dlen := d } 0#32)) ∧
      (v.toNat = 0 ∨ s.build.dmax < v.toNat → exec (.setdlen v) s = .next (s.faulted .dlen))

/-- R142: in IDLE and SEEDED `LDDIG` writes one byte of the digest buffer; a position at or above `DMAX` is `E_RANGE`.
Every other byte of the buffer reads as before. -/
def Obligations.LddigWritesOrFaults : Prop :=
  ∀ (pos val : Byte) (s : State), s.regs.phase = .idle ∨ s.regs.phase = .seeded → s.regs.dig.wf →
    (pos.toNat < s.build.dmax →
      ∃ dig : Memory, exec (.lddig pos val) s = .next (s.answered { s.regs with dig := dig } 0#32) ∧
        dig.read pos.toNat = val ∧ ∀ a, a ≠ pos.toNat → dig.read a = s.regs.dig.read a) ∧
      (s.build.dmax ≤ pos.toNat → exec (.lddig pos val) s = .next (s.faulted .range))

/-! ## Seeding (spec/42_seeder.md) -/

/-- R150, R243: `Validate` gives the first failing check in the order size, rules, iterations, indices. -/
def Obligations.ValidateGivesTheFirstFailure : Prop :=
  ∀ (b : Build) (r : Regs),
    (r.n < 64 ∨ b.nmax < r.n → validate b r = .size) ∧
      (64 ≤ r.n → r.n ≤ b.nmax →
        (r.rlen.toNat = 0 → validate b r = .rules) ∧
          (1 ≤ r.rlen.toNat →
            (r.ipb.toNat = 0 → validate b r = .ipb) ∧
              (1 ≤ r.ipb.toNat →
                ((r.mode.getLsbD 0 = true ∧ ∃ k : Fin 8, r.n ≤ (r.xi[k]).toNat) → validate b r = .index) ∧
                  ((r.mode.getLsbD 0 = false ∨ ∀ k : Fin 8, (r.xi[k]).toNat < r.n) → validate b r = .none))))

/-- R152, R154, R243: a configuration that `Validate` refuses faults both seeding commands with its code, before the grid
is written and before a symbol is taken. -/
def Obligations.SeedingRefusesBadConfiguration : Prop :=
  ∀ s : State, s.regs.phase = .idle → validate s.build s.regs ≠ .none →
    exec .seed s = .next (s.faulted (validate s.build s.regs)) ∧
      exec .seedraw s = .next (s.faulted (validate s.build s.regs))

/-- R152, R151: `SEED` fills the grid with the tiled digest bits. -/
def Obligations.SeedTilesTheDigest : Prop :=
  ∀ s : State, s.regs.phase = .idle → ConfigOk s.build s.regs →
    ∃ g : List Bool,
      exec .seed s =
          .next (s.answered { s.regs with grid := g, cur := 0#8, kacc := 0#20, phase := .seeded } 0#32) ∧
        g.length = s.regs.n ∧
        ∀ i, i < s.regs.n → cell g i = (s.regs.dig.read (i % s.regs.dlen.toNat)).getLsbD (i % 8)

/-- R154: `SEEDRAW` with a frame of exactly the needed bytes loads the cells from them, sets `DEGR` and consumes the
frame. -/
def Obligations.SeedrawLoadsTheFrame : Prop :=
  ∀ (s : State) (bytes : List Byte) (rest : List Symbol),
    s.regs.phase = .idle → ConfigOk s.build s.regs → bytes.length = (s.regs.n + 7) / 8 →
    s.ports.din = frameOf bytes ++ rest →
      ∃ g : List Bool,
        exec .seedraw s =
            .next
              { build := s.build
                regs := { s.regs with grid := g, degr := true, cur := 0#8, kacc := 0#20, phase := .seeded }
                ports :=
                  { s.ports with din := rest, trace := .rsp 0#32 :: takenSymbols (frameOf bytes) ++ s.ports.trace }
                job := none } ∧
          g.length = s.regs.n ∧
          ∀ i (h : i / 8 < bytes.length), i < s.regs.n → cell g i = bytes[i / 8].getLsbD (i % 8)

/-- R154, R251: a frame of another length is consumed to its `End` and faults with `E_SEEDLEN`; an `IoErr` in the frame
faults with `E_IO` at once, whatever the number of bytes before it. -/
def Obligations.SeedrawFaultsOnBadFrames : Prop :=
  ∀ (s : State) (bytes : List Byte) (rest : List Symbol), s.regs.phase = .idle → ConfigOk s.build s.regs →
    (bytes.length ≠ (s.regs.n + 7) / 8 → s.ports.din = frameOf bytes ++ rest →
      ∃ g : List Bool,
        exec .seedraw s =
          .next
            { build := s.build
              regs := { s.regs with grid := g, err := .seedLen, phase := .fault }
              ports :=
                { s.ports with
                  din := rest, trace := .rsp 0x09000000#32 :: takenSymbols (frameOf bytes) ++ s.ports.trace }
              job := none }) ∧
      (s.ports.din = bytes.map .data ++ .ioErr :: rest →
        ∃ g : List Bool,
          exec .seedraw s =
            .next
              { build := s.build
                regs := { s.regs with grid := g, err := .io, phase := .fault }
                ports :=
                  { s.ports with
                    din := rest
                    trace := .rsp 0x0A000000#32 :: takenSymbols (bytes.map .data ++ [.ioErr]) ++ s.ports.trace }
                job := none })

/-- R153, R151: in SEEDED `MIX` XORs the tiled digest bits into the cells `0 .. floor(N/8)·8 - 1` and leaves the rest. -/
def Obligations.MixXorsTheDigest : Prop :=
  ∀ s : State, s.regs.phase = .seeded → s.regs.grid.length = s.regs.n →
    ∃ g : List Bool, exec .mix s = .next (s.answered { s.regs with grid := g } 0#32) ∧ g.length = s.regs.n ∧
      ∀ i, i < s.regs.n →
        cell g i =
          if i < s.regs.n / 8 * 8 then
            (cell s.regs.grid i ^^ (s.regs.dig.read (i % s.regs.dlen.toNat)).getLsbD (i % 8))
          else cell s.regs.grid i

/-! ## The generator (spec/43_generator.md) -/

/-- R168: one generation, cell by cell, and the cursor. Nothing else is written. -/
def Obligations.EvolveComputesEveryCell : Prop :=
  ∀ r : Regs, 1 ≤ r.n → r.grid.length = r.n → 1 ≤ r.rlen.toNat → r.rlen.toNat ≤ 256 →
    ∃ (g : List Bool) (c : BitVec 8),
      evolve r = { r with grid := g, cur := c } ∧ c.toNat = (r.cur.toNat + 1) % r.rlen.toNat ∧ g.length = r.n ∧
        ∀ i, i < r.n →
          cell g i =
            ruleEval (cell r.grid ((i + r.n - 1) % r.n)) (cell r.grid i) (cell r.grid ((i + 1) % r.n))
              (r.rs.read r.cur.toNat)

/-- R171, R64, R43: the cell of slot `b` in both extraction modes; it lies in the grid in every state that the block can
be in once it is seeded; and it is bit `b` of the extracted byte. -/
def Obligations.ExtractionReadsTheSlotsCells : Prop :=
  ∀ (r : Regs) (b : Fin 8),
    (r.mode.getLsbD 0 = false → r.extractIndex b = (r.kacc.toNat + r.c2.toNat * b.val) % r.n) ∧
      (r.mode.getLsbD 0 = true → r.extractIndex b = (r.xi[b]).toNat) ∧
      (∀ bld : Build, ConfigOk bld r → r.extractIndex b < r.n) ∧
      (extractByte r).getLsbD b.val = cell r.grid (r.extractIndex b)

/-- R177, R181: in SEEDED `WARMUP` runs `WARM` evolutions, enters WARMED, touches no port but `RSP`; the cursor then is
`WARM mod RLEN`. -/
def Obligations.WarmupEvolvesWarmTimes : Prop :=
  ∀ s : State, s.regs.phase = .seeded → s.regs.cur = 0#8 → 1 ≤ s.regs.rlen.toNat → s.regs.rlen.toNat ≤ 256 →
    ∃ (g : List Bool) (c : BitVec 8),
      exec .warmup s = .next (s.answered { s.regs with grid := g, cur := c, phase := .warmed } 0#32) ∧
        g = (evolve^[s.regs.warm.toNat] s.regs).grid ∧ c.toNat = s.regs.warm.toNat % s.regs.rlen.toNat

/-- R176, R178: with `ENT = 0` `GENB` runs `IPB` evolutions, answers the byte extracted from the grid they leave,
advances `KACC`, enters RUNNING, and touches no port but `RSP`. -/
def Obligations.GenbProducesOneByte : Prop :=
  ∀ s : State, s.regs.phase.producing = true → s.regs.ent = false →
    exec .genb s =
        .next
          (s.answered
            { evolve^[s.regs.ipb.toNat] s.regs with
              kacc := BitVec.ofNat 20 ((s.regs.kacc.toNat + s.regs.c1.toNat) % s.regs.n), phase := .running }
            (0#24 ++ genByte s.regs)) ∧
      ∀ b : Fin 8,
        (genByte s.regs).getLsbD b.val = cell (evolve^[s.regs.ipb.toNat] s.regs).grid (s.regs.extractIndex b)

/-- R172, R181: after `k` bytes from a freshly warmed state, `KACC`, `CUR` and the cells that formula mode reads. -/
def Obligations.AccountingAfterBytes : Prop :=
  ∀ (r : Regs) (k : Nat), r.kacc = 0#20 → 1 ≤ r.n → 1 ≤ r.rlen.toNat → r.rlen.toNat ≤ 256 →
    r.cur.toNat = r.warm.toNat % r.rlen.toNat →
      (genStep^[k] r).kacc.toNat = r.c1.toNat * k % r.n ∧
        (genStep^[k] r).cur.toNat = (r.warm.toNat + r.ipb.toNat * k) % r.rlen.toNat ∧
        (r.xmode = false →
          ∀ b : Fin 8, (genStep^[k] r).extractIndex b = (r.c1.toNat * k + r.c2.toNat * b.val) % r.n)

/-- R175: the cell each `INDEX` draw writes, and that it writes no other. -/
def Obligations.EnhanceWritesOneCell : Prop :=
  ∀ (r : Regs) (d : Word) (i : Nat), r.grid.length = r.n → i < r.n →
    cell (flipCell d r).grid i = (if i = d.toNat % r.n then !cell r.grid i else cell r.grid i) ∧
      cell (trialCell d r).grid i =
        if i = d.toNat % r.n then (cell r.grid i ^^ cell r.grid ((i + r.n / 2) % r.n)) else cell r.grid i

/-- R175, R176: `GENB` with `ENT = 1`. If its `GATE2` draw does not open, it takes that one answer and produces the byte of
`ENT = 0`. If it opens: the flip if `GATE1` opens, then `floor(N/4)` trials in order, each on the grid the one before
left, then the extraction. -/
def Obligations.GenbWithEntropyInjection : Prop :=
  ∀ (s : State) (g2 g1 : Word) (flips trials rest : List Word),
    s.regs.phase.producing = true → s.regs.ent = true →
      (s.ports.drw = g2 :: rest → g2.getLsbD 0 = false →
        exec .genb s =
          .next
            { build := s.build
              regs := genStep s.regs
              ports :=
                { s.ports with
                  drw := rest
                  trace := .rsp (0#24 ++ genByte s.regs) :: .drw g2 :: .drq .gate2 :: s.ports.trace }
              job := none }) ∧
        (s.ports.drw = g2 :: g1 :: flips ++ trials ++ rest → g2.getLsbD 0 = true →
          flips.length = (if g1.getLsbD 0 then 1 else 0) → trials.length = s.regs.n / 4 →
            let evolved := evolve^[s.regs.ipb.toNat] s.regs
            let flipped := flips.foldl (fun r d => flipCell d r) evolved
            let enhanced := trials.foldl (fun r d => trialCell d r) flipped
            ∃ t, exec .genb s = .next t ∧ t.job = none ∧ t.regs = afterByte enhanced ∧ t.ports.drw = rest ∧
              t.ports.responses = s.ports.responses ++ [0#24 ++ extractByte enhanced] ∧
              t.ports.drawRequests =
                s.ports.drawRequests ++ [.gate2, .gate1] ++ flips.map (fun _ => .index) ++
                  trials.map (fun _ => .index))

/-- R274, R176: with `ENT = 0` no command requests a draw or takes an answer. -/
def Obligations.NoDrawsWithoutEntropy : Prop :=
  ∀ (i : Instr) (s t : State), s.regs.ent = false → exec i s = .next t →
    t.ports.drw = s.ports.drw ∧ t.ports.drawRequests = s.ports.drawRequests

/-- R179: with `ENT = 0` and a sink that accepts, `FILL len` delivers the next `len` keystream bytes, answers their
number, and leaves the state of `len` byte productions; `FILL 0` changes nothing. -/
def Obligations.FillDeliversTheKeystream : Prop :=
  ∀ (len : Imm) (s : State) (rest : List Answer),
    s.regs.phase.producing = true → s.regs.ent = false → s.ports.sink = List.replicate len.toNat .ok ++ rest →
      exec (.fill len) s =
        .next
          { build := s.build
            regs := genStep^[len.toNat] s.regs
            ports :=
              { s.ports with
                sink := rest
                trace := .rsp (BitVec.ofNat 32 len.toNat) :: sentBytes (keystream len.toNat s.regs) ++ s.ports.trace }
            job := none }

/-- R179, R245: a sink that refuses byte `k` of a `FILL` ends it with `E_IO`: the byte was produced and the state has
advanced, the `k` bytes before it stay delivered. -/
def Obligations.FillStopsAtARefusedByte : Prop :=
  ∀ (len : Imm) (k : Nat) (s : State) (rest : List Answer),
    s.regs.phase.producing = true → s.regs.ent = false → k < len.toNat →
    s.ports.sink = List.replicate k .ok ++ .ioerr :: rest →
      ∃ t, exec (.fill len) s = .next t ∧ t.job = none ∧
        t.regs = { genStep^[k + 1] s.regs with err := .io, phase := .fault } ∧ t.ports.sink = rest ∧
        t.ports.delivered = s.ports.delivered ++ keystream k s.regs ∧
        t.ports.responses = s.ports.responses ++ [0x0A000000#32]

/-! ## Streams (spec/44_stream.md) -/

/-- R192, R193, R196, R200: with `ENT = 0`, `XSTREAM` of a frame the sink accepts writes the data XOR the next keystream
bytes, one `PROGRESS` event per 2^20 bytes, answers the count modulo 2^24, advances the generator by the length of
the data and consumes the frame; so an empty frame leaves the generator untouched (R197). -/
def Obligations.XstreamXorsTheKeystream : Prop :=
  ∀ (s : State) (bytes : List Byte) (rest : List Symbol) (answers : List Answer),
    s.regs.phase.producing = true → s.regs.ent = false → 1 ≤ s.build.chunk →
    s.ports.din = frameOf bytes ++ rest → s.ports.sink = List.replicate bytes.length .ok ++ answers →
      ∃ t, exec .xstream s = .next t ∧ t.build = s.build ∧ t.job = none ∧
        t.regs = genStep^[bytes.length] s.regs ∧
        t.ports = { s.ports with din := rest, sink := answers, trace := t.ports.trace } ∧
        t.ports.delivered = s.ports.delivered ++ List.zipWith (· ^^^ ·) bytes (keystream bytes.length s.regs) ∧
        t.ports.consumed = s.ports.consumed ++ frameOf bytes ∧
        t.ports.events = s.ports.events ++ progressCounts bytes.length ∧
        t.ports.responses = s.ports.responses ++ [BitVec.ofNat 32 (bytes.length % 16777216)] ∧
        t.ports.keyRequests = s.ports.keyRequests ∧ t.ports.drawRequests = s.ports.drawRequests

/-- R192, R194: `XSTREAMX` writes the data XOR the bytes of `KIN`, asks for them in requests of `CHUNK` and one for the
remainder, and changes no register. The word on `KRQ` for a request of 2^32 bytes or more, which the 32 bits of R105
cannot hold, is a free value (DESIGN CHOICE, log entry 2). -/
def Obligations.XstreamxXorsTheExternalKey : Prop :=
  ∀ (s : State) (bytes keys : List Byte) (rest : List Symbol) (answers : List Answer) (more : List Byte),
    s.regs.phase ≠ .fault → 1 ≤ s.build.chunk → keys.length = bytes.length →
    s.ports.din = frameOf bytes ++ rest → s.ports.sink = List.replicate bytes.length .ok ++ answers →
    s.ports.kin = keys ++ more →
      ∃ t, exec .xstreamx s = .next t ∧ t.build = s.build ∧ t.job = none ∧ t.regs = s.regs ∧
        t.ports = { s.ports with din := rest, sink := answers, kin := more, trace := t.ports.trace } ∧
        t.ports.delivered = s.ports.delivered ++ List.zipWith (· ^^^ ·) bytes keys ∧
        t.ports.keyRequests = s.ports.keyRequests ++ requestSizes s.build.chunk bytes.length ∧
        t.ports.events = s.ports.events ++ progressCounts bytes.length ∧
        t.ports.responses = s.ports.responses ++ [BitVec.ofNat 32 (bytes.length % 16777216)] ∧
        t.ports.drawRequests = s.ports.drawRequests

/-- R199, for every `CHUNK` and a failure in any chunk. With `ENT = 0`, explicitly: (a) an `IoErr` ends `XSTREAM` with
every earlier full chunk written and no key byte produced for the broken one; (b) a refused byte `i` ends it with `i`
bytes written and the generator advanced to the end of that byte's chunk, and the symbols behind that chunk left on `DIN`.
Then for both commands, with and without entropy injection: registers, requests and output at the failure are those of
a stream of just those bytes that completes, with `ERR` and `PHASE` written. -/
def Obligations.StreamFailsAsR199Says : Prop :=
  ∀ (s : State) (bytes : List Byte) (rest : List Symbol), 1 ≤ s.build.chunk →
    let whole := bytes.length / s.build.chunk * s.build.chunk
    let reached : Nat → Nat := fun i => (i / s.build.chunk + 1) * s.build.chunk
    (s.regs.phase.producing = true → s.regs.ent = false →
        (∀ answers : List Answer, s.ports.din = bytes.map .data ++ .ioErr :: rest →
            s.ports.sink = List.replicate whole .ok ++ answers →
          ∃ t, exec .xstream s = .next t ∧ t.job = none ∧
            t.regs = { genStep^[whole] s.regs with err := .io, phase := .fault } ∧
            t.ports = { s.ports with din := rest, sink := answers, trace := t.ports.trace } ∧
            t.ports.delivered =
              s.ports.delivered ++ List.zipWith (· ^^^ ·) (bytes.take whole) (keystream whole s.regs) ∧
            t.ports.events = s.ports.events ++ progressCounts whole ∧
            t.ports.responses = s.ports.responses ++ [0x0A000000#32]) ∧
          ∀ (i : Nat) (answers : List Answer), i < bytes.length → s.ports.din = frameOf bytes ++ rest →
              s.ports.sink = List.replicate i .ok ++ .ioerr :: answers →
            ∃ t, exec .xstream s = .next t ∧ t.job = none ∧
              t.regs = { genStep^[min (reached i) bytes.length] s.regs with err := .io, phase := .fault } ∧
              t.ports =
                { s.ports with
                  din := (frameOf bytes).drop (reached i) ++ rest, sink := answers, trace := t.ports.trace } ∧
              t.ports.delivered =
                s.ports.delivered ++ (List.zipWith (· ^^^ ·) bytes (keystream bytes.length s.regs)).take i ∧
              t.ports.events = s.ports.events ++ progressCounts i ∧
              t.ports.responses = s.ports.responses ++ [0x0A000000#32]) ∧
      ∀ (c : Instr) (t : State), c = .xstream ∨ c = .xstreamx →
        (exec c (s.withFrames (frameOf (bytes.take whole) ++ rest)) = .next t → t.job = none →
            t.regs.phase ≠ .fault →
          ∃ u, exec c (s.withFrames (bytes.map .data ++ .ioErr :: rest)) = .next u ∧ u.job = none ∧
            u.regs = { t.regs with err := .io, phase := .fault } ∧
            u.ports = { t.ports with trace := u.ports.trace } ∧ u.ports.delivered = t.ports.delivered ∧
            u.ports.events = t.ports.events ∧ u.ports.keyRequests = t.ports.keyRequests ∧
            u.ports.drawRequests = t.ports.drawRequests ∧
            u.ports.responses = s.ports.responses ++ [0x0A000000#32]) ∧
          ∀ (i : Nat) (answers : List Answer), i < bytes.length →
              exec c
                  ((s.withFrames (frameOf (bytes.take (reached i)) ++ rest)).withAnswers
                    (List.replicate (min (reached i) bytes.length) .ok ++ answers)) = .next t →
              t.job = none → t.regs.phase ≠ .fault →
            ∃ u,
              exec c
                    ((s.withFrames (frameOf bytes ++ rest)).withAnswers
                      (List.replicate i .ok ++ .ioerr :: answers)) = .next u ∧
                u.job = none ∧ u.regs = { t.regs with err := .io, phase := .fault } ∧
                u.ports =
                  { t.ports with
                    din := (frameOf bytes).drop (reached i) ++ rest, trace := u.ports.trace } ∧
                u.ports.delivered = s.ports.delivered ++ (t.ports.delivered.drop s.ports.delivered.length).take i ∧
                u.ports.events = s.ports.events ++ progressCounts i ∧
                u.ports.keyRequests = t.ports.keyRequests ∧ u.ports.drawRequests = t.ports.drawRequests ∧
                u.ports.responses = s.ports.responses ++ [0x0A000000#32]

/-- R194: `XSTREAMX` leaves every register as it was, or only `ERR` and `PHASE` changed by `E_IO`, and uses no draw,
whatever the environment offers. -/
def Obligations.XstreamxLeavesTheGenerator : Prop :=
  ∀ s t : State, s.regs.phase ≠ .fault → exec .xstreamx s = .next t →
    (t.regs = s.regs ∨ t.regs = { s.regs with err := .io, phase := .fault }) ∧ t.build = s.build ∧
      t.ports.drw = s.ports.drw ∧ t.ports.drawRequests = s.ports.drawRequests

/-! ## System and read-back (spec/45_system_readback.md) -/

/-- R42, R208: in every phase `RDREG` of a register answers its value under the sticky `ERR`, and changes nothing; of a
number that names no register it is `E_RANGE`, and is dropped in FAULT. -/
def Obligations.RdregReadsEveryRegister : Prop :=
  ∀ s : State, s.build.wf →
    let reads : Nat → Nat → Prop := fun num v =>
      exec (.rdreg (BitVec.ofNat 20 num)) s = .next (s.answered s.regs (s.regs.err.code ++ BitVec.ofNat 24 v))
    reads 0x00 0x00CA07 ∧ reads 0x01 (s.regs.degr.toNat * 8 + s.regs.phase.code.toNat) ∧
      reads 0x02 s.regs.err.code.toNat ∧ reads 0x03 s.regs.size.toNat ∧ reads 0x04 s.regs.rlen.toNat ∧
      reads 0x05 s.regs.cur.toNat ∧ reads 0x06 s.regs.c1.toNat ∧ reads 0x07 s.regs.c2.toNat ∧
      reads 0x08 s.regs.ipb.toNat ∧ reads 0x09 s.regs.warm.toNat ∧ reads 0x0A s.regs.mode.toNat ∧
      reads 0x0B s.regs.dlen.toNat ∧ reads 0x0C s.regs.kacc.toNat ∧ reads 0x0D s.build.nmax ∧
      reads 0x0E s.build.lmax ∧ reads 0x0F s.build.dmax ∧
      (∀ k : Fin 8, reads (0x10 + k.val) (s.regs.xi[k]).toNat) ∧
      (∀ k, k < s.build.lmax → reads (0x100 + k) (s.regs.rs.read k).toNat) ∧
      ∀ num : Imm, (0x18 ≤ num.toNat ∧ num.toNat < 0x100) ∨ 0x100 + s.build.lmax ≤ num.toNat →
        (s.regs.phase ≠ .fault → exec (.rdreg num) s = .next (s.faulted .range)) ∧
          (s.regs.phase = .fault → exec (.rdreg num) s = .next (s.answered s.regs (s.regs.err.code ++ 0#24)))

/-- R209: in SEEDED, WARMED and RUNNING `RDCELL` answers the cell and changes nothing; an index at or above `N` is
`E_RANGE`, without reduction. -/
def Obligations.RdcellReadsOneCell : Prop :=
  ∀ (idx : Imm) (s : State), s.regs.phase = .seeded ∨ s.regs.phase = .warmed ∨ s.regs.phase = .running →
    (idx.toNat < s.regs.n →
      exec (.rdcell idx) s = .next (s.answered s.regs (BitVec.ofNat 32 (cell s.regs.grid idx.toNat).toNat))) ∧
      (s.regs.n ≤ idx.toNat → exec (.rdcell idx) s = .next (s.faulted .range))

/-! ## Faults and resets (spec/60_exceptions.md, spec/70_reset_and_hazards.md) -/

/-- R240, R236: a command that ends in FAULT has written `ERR` with a code that is not 0 and answered `{ERR, 0}` as its
last port activity; no configuration register, digest byte or `DEGR` has changed; and for every code but `E_SEEDLEN`
and `E_IO` nothing else has changed at all. -/
def Obligations.FaultSavesOnlyTheCode : Prop :=
  ∀ (i : Instr) (s t : State), s.regs.phase ≠ .fault → exec i s = .next t → t.regs.phase = .fault →
    t.regs.err ≠ .none ∧ t.job = none ∧ t.ports.trace.head? = some (.rsp (t.regs.err.code ++ 0#24)) ∧
      SameConfig s.regs t.regs ∧ t.regs.dig = s.regs.dig ∧ t.regs.degr = s.regs.degr ∧
      (t.regs.err ≠ .io → t.regs.err ≠ .seedLen → t = s.faulted t.regs.err)

/-- R250: in FAULT the legal `SRST` word resets, a legal `RDREG` of a register answers, and every other word, legal or
illegal, is dropped: nothing changes and no port but `CMD` and `RSP` is touched. -/
def Obligations.FaultDropsEveryOtherWord : Prop :=
  ∀ (s : State) (w : Word) (rest : List Word),
    s.regs.phase = .fault → s.ports.rst = .released → s.job = none → s.ports.cmd = w :: rest →
      (w = 0x01000000#32 → step s = .next ((s.accepted w rest).answered resetRegs 0#32)) ∧
        (∀ (num : Imm) (v : Nat), decode w = .ok (.rdreg num) → s.register num.toNat = some v →
          step s = .next ((s.accepted w rest).answered s.regs (s.regs.err.code ++ BitVec.ofNat 24 v))) ∧
        (w ≠ 0x01000000#32 → (∀ num : Imm, decode w = .ok (.rdreg num) → s.register num.toNat = none) →
          step s = .next ((s.accepted w rest).answered s.regs (s.regs.err.code ++ 0#24)))

/-- R265, R206. While `RST` is asserted a step resets every register, abandons the command in progress without a response,
accepts no command and drives no port; in every phase `SRST` leaves the same registers and answers 0. `RST` asserted at
any moment of a step, after `k` of the items that cross in it, abandons the command there: the first `k` items have
crossed their ports, the later ones have not, the response is the last that could, every register is reset and the pin
is asserted. That the items still offered stay queued is DEDUCED (log entry 17), the number of items as the form of the
moment is the model's (log entry 6), and the grid among `the same registers` is the model's choice (log entry 3). -/
def Obligations.BothResetsHaveTheSameEffect : Prop :=
  ∀ s : State,
    (s.ports.rst = .asserted → step s = .next { s with regs := resetRegs, job := none }) ∧
      exec .srst s = .next (s.answered resetRegs 0#32) ∧
      ∀ (k : Nat) (u : State), s.ports.rst = .assertedAfter k → step (s.withRst .released) = .next u →
        ∃ new : List Item, u.ports.trace = new ++ s.ports.trace ∧
          (k ≤ new.length →
            ∃ t, step s = .next t ∧ t.build = s.build ∧ t.regs = resetRegs ∧ t.job = none ∧
              t.ports.rst = .asserted ∧ t.ports.trace = new.drop (new.length - k) ++ s.ports.trace ∧
              (k < new.length → ∀ w, .rsp w ∉ new.drop (new.length - k)) ∧
              let crossed := (new.drop (new.length - k)).reverse
              s.ports.cmd = (crossed.filterMap fun x => match x with | .cmd w => some w | _ => none) ++ t.ports.cmd ∧
                s.ports.din = (crossed.filterMap fun x => match x with | .din d => some d | _ => none) ++ t.ports.din ∧
                s.ports.sink =
                  (crossed.filterMap fun x => match x with | .dout _ a => some a | _ => none) ++ t.ports.sink ∧
                s.ports.kin = (crossed.filterMap fun x => match x with | .kin v => some v | _ => none) ++ t.ports.kin ∧
                s.ports.drw = (crossed.filterMap fun x => match x with | .drw d => some d | _ => none) ++ t.ports.drw) ∧
          (new.length < k → step s = .next (u.withRst (.assertedAfter (k - new.length))))

/-- R49 without its `GRID` row (whose reset contents are the model's choice, log entry 3), as `RDREG` numbers and the
stores show it. -/
def Obligations.ResetValuesOfTheTable : Prop :=
  ∀ b : Build, b.wf →
    let s := State.resetOf b
    (s.register 0x00 = some 0x00CA07 ∧ s.register 0x01 = some 0 ∧ s.register 0x02 = some 0 ∧
        s.register 0x03 = some 0 ∧ s.register 0x04 = some 4 ∧ s.register 0x05 = some 0 ∧ s.register 0x06 = some 13 ∧
        s.register 0x07 = some 7 ∧ s.register 0x08 = some 1 ∧ s.register 0x09 = some 0 ∧ s.register 0x0A = some 0 ∧
        s.register 0x0B = some 32 ∧ s.register 0x0C = some 0 ∧ s.register 0x0D = some b.nmax ∧
        s.register 0x0E = some b.lmax ∧ s.register 0x0F = some b.dmax) ∧
      (s.register 0x100 = some 150 ∧ s.register 0x101 = some 30 ∧ s.register 0x102 = some 90 ∧
        s.register 0x103 = some 22) ∧
      (∀ k, 4 ≤ k → k < b.lmax → s.register (0x100 + k) = some 0) ∧ (∀ k, k < 8 → s.register (0x10 + k) = some 0) ∧
      (∀ k, s.regs.dig.read k = 0#8) ∧ s.job = none

/-! ## Properties of whole commands -/

/-- R154, R178, R179, R192 to R194: each command that talks to the environment does exactly what the uncut pseudocode of
its rule does with the items on offer, where they suffice, and waits where they do not, whatever the mode. That a command
left waiting stands in `job` is the model's form (log entry 5), and so is the pseudocode of `SEEDRAW` over a grid that
starts empty (DEDUCED, log entry 12). -/
def Obligations.ResumableCommandsFollowThePseudocode : Prop :=
  ∀ s : State, 1 ≤ s.build.chunk →
    let follows : Instr → Option State → Prop := fun i r =>
      (∀ t, r = some t → exec i s = .next t) ∧ (r = none → ∃ t, exec i s = .next t ∧ t.job ≠ none)
    (s.regs.phase.producing = true →
        follows .genb (Ref.genb s) ∧ (∀ len : Imm, follows (.fill len) (Ref.fill len.toNat 0 s)) ∧
          follows .xstream (Ref.stream .int s)) ∧
      (s.regs.phase ≠ .fault → follows .xstreamx (Ref.stream .ext s)) ∧
      (s.regs.phase = .idle → validate s.build s.regs = .none →
        follows .seedraw (Ref.seedRaw s.ports.din.length 0 (s.withRegs { s.regs with grid := [] })))

/-- R195: with the same generator state, draw answers and sink, `XSTREAM` of what `XSTREAM` wrote writes the original
bytes. -/
def Obligations.XstreamTwiceGivesThePlaintext : Prop :=
  ∀ (s t : State) (plain : List Byte) (rest : List Symbol), 1 ≤ s.build.chunk →
    exec .xstream (s.withFrames (frameOf plain ++ rest)) = .next t → t.job = none → t.regs.phase ≠ .fault →
      ∃ cipher : List Byte, cipher.length = plain.length ∧ t.ports.delivered = s.ports.delivered ++ cipher ∧
        ∃ u, exec .xstream (s.withFrames (frameOf cipher ++ rest)) = .next u ∧ u.job = none ∧ u.regs = t.regs ∧
          u.ports.delivered = s.ports.delivered ++ plain

/-- R180, R179: `FILL a` then `FILL b` delivers the bytes of `FILL a+b` and leaves its state. -/
def Obligations.FillsCompose : Prop :=
  ∀ (a b : Imm) (s t : State), a.toNat + b.toNat < 1048576 →
    exec (.fill a) s = .next t → t.job = none → t.regs.phase ≠ .fault →
      ∃ u v, exec (.fill b) t = .next u ∧ exec (.fill (a + b)) s = .next v ∧ u.regs = v.regs ∧
        u.ports.delivered = v.ports.delivered ∧ u.ports.drawRequests = v.ports.drawRequests ∧
        u.ports.sink = v.ports.sink ∧ u.ports.drw = v.ports.drw ∧ (u.job = none ↔ v.job = none)

/-- R201: two fault-free `XSTREAM` commands deliver what one delivers whose frame holds the data of both, and leave the
same state. -/
def Obligations.StreamsCompose : Prop :=
  ∀ (p q : List Byte) (rest : List Symbol) (s t u : State), 1 ≤ s.build.chunk →
    exec .xstream (s.withFrames (frameOf p ++ frameOf q ++ rest)) = .next t → t.job = none → t.regs.phase ≠ .fault →
    exec .xstream t = .next u → u.job = none → u.regs.phase ≠ .fault →
      ∃ v, exec .xstream (s.withFrames (frameOf (p ++ q) ++ rest)) = .next v ∧ v.job = none ∧ v.regs = u.regs ∧
        v.ports.delivered = u.ports.delivered ∧ v.ports.drawRequests = u.ports.drawRequests ∧
        v.ports.din = u.ports.din ∧ v.ports.sink = u.ports.sink ∧ v.ports.drw = u.ports.drw

/-- R198: `CHUNK` cannot be observed on a fault-free `XSTREAM`. -/
def Obligations.ChunkIsUnobservableOnXstream : Prop :=
  ∀ (s t : State) (c d : Nat), 1 ≤ c → 1 ≤ d →
    exec .xstream (s.withChunk c) = .next t → t.job = none → t.regs.phase ≠ .fault →
      ∃ u, exec .xstream (s.withChunk d) = .next u ∧ u.job = none ∧ u.regs = t.regs ∧
        u.ports = { t.ports with trace := u.ports.trace } ∧ u.ports.delivered = t.ports.delivered ∧
        u.ports.consumed = t.ports.consumed ∧ u.ports.events = t.ports.events ∧
        u.ports.drawRequests = t.ports.drawRequests ∧ u.ports.responses = t.ports.responses

/-- R202: the data bytes on `DIN` reach no register, draw request, key request, event or response of a stream command. -/
def Obligations.KeyDoesNotDependOnData : Prop :=
  ∀ (i : Instr) (f : Byte → Byte) (s t : State), i = .xstream ∨ i = .xstreamx → exec i s = .next t →
    ∃ u, exec i (s.mapDin f) = .next u ∧ u.regs = t.regs ∧ (u.job = none ↔ t.job = none) ∧
      u.ports.sink = t.ports.sink ∧ u.ports.kin = t.ports.kin ∧ u.ports.drw = t.ports.drw ∧
      u.ports.drawRequests = t.ports.drawRequests ∧ u.ports.keyRequests = t.ports.keyRequests ∧
      u.ports.events = t.ports.events ∧ u.ports.responses = t.ports.responses ∧
      u.ports.delivered.length = t.ports.delivered.length

/-- R38: the digest buffer is write-only: but for `SEED`, `MIX`, `LDDIG` and `SRST`, a command does the same whatever the
buffer holds, and leaves it. -/
def Obligations.DigestBufferIsWriteOnly : Prop :=
  ∀ (i : Instr) (m : Memory) (s t : State), i ≠ .seed → i ≠ .mix → (∀ p v, i ≠ .lddig p v) → i ≠ .srst →
    exec i s = .next t → exec i (s.withDig m) = .next (t.withDig m)

/-- R15, R280, and log entry 5: how the environment cuts its input into deliveries cannot be seen: a command that is
given more items while it waits ends as if they had been there from the start. -/
def Obligations.LateDeliveryGivesTheSameRun : Prop :=
  ∀ (i : Instr) (s t : State) (din : List Symbol) (sink : List Answer) (kin : List Byte) (drw : List Word),
    exec i s = .next t → exec i (s.feed din sink kin drw) = .next (t.feed din sink kin drw).run
end

