-- ==== Sys2Proof/Laws/Decode.lean ====
section
/-! SUPPORT. The fields of the words the encoder writes: each field of a format reads back as what was put there. -/

namespace Sys2Proof

/-! The formats write their fields side by side; the bits of a concatenation, at each pair of widths they use. -/

theorem getLsbD_op_append (x : Byte) (y : BitVec 24) (i : Nat) :
    (x ++ y : Word).getLsbD i = if i < 24 then y.getLsbD i else x.getLsbD (i - 24) := BitVec.getLsbD_append

theorem getLsbD_sel_append (x : BitVec 4) (y : Imm) (i : Nat) :
    (x ++ y : BitVec 24).getLsbD i = if i < 20 then y.getLsbD i else x.getLsbD (i - 20) := BitVec.getLsbD_append

theorem getLsbD_zeroB_append (x : Byte) (y : BitVec 16) (i : Nat) :
    (x ++ y : BitVec 24).getLsbD i = if i < 16 then y.getLsbD i else x.getLsbD (i - 16) := BitVec.getLsbD_append

theorem getLsbD_pos_append (x y : Byte) (i : Nat) :
    (x ++ y : BitVec 16).getLsbD i = if i < 8 then y.getLsbD i else x.getLsbD (i - 8) := BitVec.getLsbD_append

theorem getLsbD_zeroR_append (x : BitVec 13) (y : BitVec 11) (i : Nat) :
    (x ++ y : BitVec 24).getLsbD i = if i < 11 then y.getLsbD i else x.getLsbD (i - 11) := BitVec.getLsbD_append

theorem getLsbD_nb_append (x : BitVec 3) (y : Byte) (i : Nat) :
    (x ++ y : BitVec 11).getLsbD i = if i < 8 then y.getLsbD i else x.getLsbD (i - 8) := BitVec.getLsbD_append

@[simp] theorem opField_wordZ (op : Byte) : opField (wordZ op) = op :=
  BitVec.extractLsb'_append_eq_left

@[simp] theorem opField_wordI (op : Byte) (sel : BitVec 4) (imm : Imm) : opField (wordI op sel imm) = op :=
  BitVec.extractLsb'_append_eq_left

@[simp] theorem opField_wordB (op pos val : Byte) : opField (wordB op pos val) = op :=
  BitVec.extractLsb'_append_eq_left

@[simp] theorem opField_wordR (op : Byte) (nb : BitVec 3) (rule : Byte) : opField (wordR op nb rule) = op :=
  BitVec.extractLsb'_append_eq_left

@[simp] theorem zeroFieldZ_wordZ (op : Byte) : zeroFieldZ (wordZ op) = 0#24 :=
  BitVec.extractLsb'_append_eq_right

@[simp] theorem selField_wordI (op : Byte) (sel : BitVec 4) (imm : Imm) : selField (wordI op sel imm) = sel := by
  ext i hi
  simp only [selField, wordI, BitVec.getElem_extractLsb']
  rw [getLsbD_op_append, if_pos (by omega)]
  rw [getLsbD_sel_append, if_neg (by omega)]
  simp [hi]

@[simp] theorem immField_wordI (op : Byte) (sel : BitVec 4) (imm : Imm) : immField (wordI op sel imm) = imm := by
  ext i hi
  simp only [immField, wordI, BitVec.getElem_extractLsb']
  simp only [Nat.zero_add]
  rw [getLsbD_op_append, if_pos (by omega)]
  rw [getLsbD_sel_append, if_pos (by omega)]
  simp [hi]

@[simp] theorem zeroFieldB_wordB (op pos val : Byte) : zeroFieldB (wordB op pos val) = 0#8 := by
  ext i hi
  simp only [zeroFieldB, wordB, BitVec.getElem_extractLsb']
  rw [getLsbD_op_append, if_pos (by omega)]
  rw [getLsbD_zeroB_append, if_neg (by omega)]
  simp [hi]

@[simp] theorem posField_wordB (op pos val : Byte) : posField (wordB op pos val) = pos := by
  ext i hi
  simp only [posField, wordB, BitVec.getElem_extractLsb']
  rw [getLsbD_op_append, if_pos (by omega)]
  rw [getLsbD_zeroB_append, if_pos (by omega)]
  rw [getLsbD_pos_append, if_neg (by omega)]
  simp [hi]

@[simp] theorem lowByteField_wordB (op pos val : Byte) : lowByteField (wordB op pos val) = val := by
  ext i hi
  simp only [lowByteField, wordB, BitVec.getElem_extractLsb']
  simp only [Nat.zero_add]
  rw [getLsbD_op_append, if_pos (by omega)]
  rw [getLsbD_zeroB_append, if_pos (by omega)]
  rw [getLsbD_pos_append, if_pos (by omega)]
  simp [hi]

@[simp] theorem zeroFieldR_wordR (op : Byte) (nb : BitVec 3) (rule : Byte) : zeroFieldR (wordR op nb rule) = 0#13 := by
  ext i hi
  simp only [zeroFieldR, wordR, BitVec.getElem_extractLsb']
  rw [getLsbD_op_append, if_pos (by omega)]
  rw [getLsbD_zeroR_append, if_neg (by omega)]
  simp [hi]

@[simp] theorem nbField_wordR (op : Byte) (nb : BitVec 3) (rule : Byte) : nbField (wordR op nb rule) = nb := by
  ext i hi
  simp only [nbField, wordR, BitVec.getElem_extractLsb']
  rw [getLsbD_op_append, if_pos (by omega)]
  rw [getLsbD_zeroR_append, if_pos (by omega)]
  rw [getLsbD_nb_append, if_neg (by omega)]
  simp [hi]

@[simp] theorem lowByteField_wordR (op : Byte) (nb : BitVec 3) (rule : Byte) : lowByteField (wordR op nb rule) = rule := by
  ext i hi
  simp only [lowByteField, wordR, BitVec.getElem_extractLsb']
  simp only [Nat.zero_add]
  rw [getLsbD_op_append, if_pos (by omega)]
  rw [getLsbD_zeroR_append, if_pos (by omega)]
  rw [getLsbD_nb_append, if_pos (by omega)]
  simp [hi]

end Sys2Proof
end

