-- ==== Sys2Proof/Laws/State.lean ====
section
/-! SUPPORT. One lemma per field for every named update of the state and of the registers, each true by `rfl`, so that no
proof unfolds a record update. -/

namespace Sys2Proof.Machine

/-! `State.withRegs` -/

@[simp] theorem State.withRegs_build (s : State) (r : Regs) : (s.withRegs r).build = s.build := rfl
@[simp] theorem State.withRegs_regs (s : State) (r : Regs) : (s.withRegs r).regs = r := rfl
@[simp] theorem State.withRegs_ports (s : State) (r : Regs) : (s.withRegs r).ports = s.ports := rfl
@[simp] theorem State.withRegs_job (s : State) (r : Regs) : (s.withRegs r).job = s.job := rfl

/-! `State.withPorts` -/

@[simp] theorem State.withPorts_build (s : State) (p : Ports) : (s.withPorts p).build = s.build := rfl
@[simp] theorem State.withPorts_regs (s : State) (p : Ports) : (s.withPorts p).regs = s.regs := rfl
@[simp] theorem State.withPorts_ports (s : State) (p : Ports) : (s.withPorts p).ports = p := rfl
@[simp] theorem State.withPorts_job (s : State) (p : Ports) : (s.withPorts p).job = s.job := rfl

/-! `State.wait` -/

@[simp] theorem State.wait_build (j : Job) (s : State) : (s.wait j).build = s.build := rfl
@[simp] theorem State.wait_regs (j : Job) (s : State) : (s.wait j).regs = s.regs := rfl
@[simp] theorem State.wait_ports (j : Job) (s : State) : (s.wait j).ports = s.ports := rfl
@[simp] theorem State.wait_job (j : Job) (s : State) : (s.wait j).job = some j := rfl

/-! `State.emit` -/

@[simp] theorem State.emit_build (x : Item) (s : State) : (s.emit x).build = s.build := rfl
@[simp] theorem State.emit_regs (x : Item) (s : State) : (s.emit x).regs = s.regs := rfl
@[simp] theorem State.emit_job (x : Item) (s : State) : (s.emit x).job = s.job := rfl
@[simp] theorem State.emit_ports_rst (x : Item) (s : State) : (s.emit x).ports.rst = s.ports.rst := rfl
@[simp] theorem State.emit_ports_cmd (x : Item) (s : State) : (s.emit x).ports.cmd = s.ports.cmd := rfl
@[simp] theorem State.emit_ports_din (x : Item) (s : State) : (s.emit x).ports.din = s.ports.din := rfl
@[simp] theorem State.emit_ports_sink (x : Item) (s : State) : (s.emit x).ports.sink = s.ports.sink := rfl
@[simp] theorem State.emit_ports_kin (x : Item) (s : State) : (s.emit x).ports.kin = s.ports.kin := rfl
@[simp] theorem State.emit_ports_drw (x : Item) (s : State) : (s.emit x).ports.drw = s.ports.drw := rfl
@[simp] theorem State.emit_ports_trace (x : Item) (s : State) : (s.emit x).ports.trace = x :: s.ports.trace := rfl

/-! `State.rsp` -/

@[simp] theorem State.rsp_build (e : Err) (p : Nat) (s : State) : (s.rsp e p).build = s.build := rfl
@[simp] theorem State.rsp_regs (e : Err) (p : Nat) (s : State) : (s.rsp e p).regs = s.regs := rfl
@[simp] theorem State.rsp_job (e : Err) (p : Nat) (s : State) : (s.rsp e p).job = none := rfl
@[simp] theorem State.rsp_ports_rst (e : Err) (p : Nat) (s : State) : (s.rsp e p).ports.rst = s.ports.rst := rfl
@[simp] theorem State.rsp_ports_cmd (e : Err) (p : Nat) (s : State) : (s.rsp e p).ports.cmd = s.ports.cmd := rfl
@[simp] theorem State.rsp_ports_din (e : Err) (p : Nat) (s : State) : (s.rsp e p).ports.din = s.ports.din := rfl
@[simp] theorem State.rsp_ports_sink (e : Err) (p : Nat) (s : State) : (s.rsp e p).ports.sink = s.ports.sink := rfl
@[simp] theorem State.rsp_ports_kin (e : Err) (p : Nat) (s : State) : (s.rsp e p).ports.kin = s.ports.kin := rfl
@[simp] theorem State.rsp_ports_drw (e : Err) (p : Nat) (s : State) : (s.rsp e p).ports.drw = s.ports.drw := rfl
@[simp] theorem State.rsp_ports_trace (e : Err) (p : Nat) (s : State) :
    (s.rsp e p).ports.trace = .rsp (respWord e p) :: s.ports.trace := rfl

/-! `State.raise` -/

@[simp] theorem State.raise_build (c : Err) (s : State) : (s.raise c).build = s.build := rfl
@[simp] theorem State.raise_regs (c : Err) (s : State) : (s.raise c).regs = { s.regs with err := c, phase := .fault } := rfl
@[simp] theorem State.raise_job (c : Err) (s : State) : (s.raise c).job = none := rfl
@[simp] theorem State.raise_ports_rst (c : Err) (s : State) : (s.raise c).ports.rst = s.ports.rst := rfl
@[simp] theorem State.raise_ports_cmd (c : Err) (s : State) : (s.raise c).ports.cmd = s.ports.cmd := rfl
@[simp] theorem State.raise_ports_din (c : Err) (s : State) : (s.raise c).ports.din = s.ports.din := rfl
@[simp] theorem State.raise_ports_sink (c : Err) (s : State) : (s.raise c).ports.sink = s.ports.sink := rfl
@[simp] theorem State.raise_ports_kin (c : Err) (s : State) : (s.raise c).ports.kin = s.ports.kin := rfl
@[simp] theorem State.raise_ports_drw (c : Err) (s : State) : (s.raise c).ports.drw = s.ports.drw := rfl
@[simp] theorem State.raise_ports_trace (c : Err) (s : State) :
    (s.raise c).ports.trace = .rsp (respWord c 0) :: s.ports.trace := rfl

/-! `State.dropped` -/

@[simp] theorem State.dropped_build (s : State) : s.dropped.build = s.build := rfl
@[simp] theorem State.dropped_regs (s : State) : s.dropped.regs = s.regs := rfl
@[simp] theorem State.dropped_job (s : State) : s.dropped.job = none := rfl
@[simp] theorem State.dropped_ports_rst (s : State) : s.dropped.ports.rst = s.ports.rst := rfl
@[simp] theorem State.dropped_ports_cmd (s : State) : s.dropped.ports.cmd = s.ports.cmd := rfl
@[simp] theorem State.dropped_ports_din (s : State) : s.dropped.ports.din = s.ports.din := rfl
@[simp] theorem State.dropped_ports_sink (s : State) : s.dropped.ports.sink = s.ports.sink := rfl
@[simp] theorem State.dropped_ports_kin (s : State) : s.dropped.ports.kin = s.ports.kin := rfl
@[simp] theorem State.dropped_ports_drw (s : State) : s.dropped.ports.drw = s.ports.drw := rfl
@[simp] theorem State.dropped_ports_trace (s : State) :
    s.dropped.ports.trace = .rsp (respWord s.regs.err 0) :: s.ports.trace := rfl

/-! `State.cleared` -/

@[simp] theorem State.cleared_build (s : State) : s.cleared.build = s.build := rfl
@[simp] theorem State.cleared_regs (s : State) : s.cleared.regs = resetRegs := rfl
@[simp] theorem State.cleared_ports (s : State) : s.cleared.ports = s.ports := rfl
@[simp] theorem State.cleared_job (s : State) : s.cleared.job = none := rfl

/-! `State.softReset` -/

@[simp] theorem State.softReset_build (s : State) : s.softReset.build = s.build := rfl
@[simp] theorem State.softReset_regs (s : State) : s.softReset.regs = resetRegs := rfl
@[simp] theorem State.softReset_job (s : State) : s.softReset.job = none := rfl
@[simp] theorem State.softReset_ports_rst (s : State) : s.softReset.ports.rst = s.ports.rst := rfl
@[simp] theorem State.softReset_ports_cmd (s : State) : s.softReset.ports.cmd = s.ports.cmd := rfl
@[simp] theorem State.softReset_ports_din (s : State) : s.softReset.ports.din = s.ports.din := rfl
@[simp] theorem State.softReset_ports_sink (s : State) : s.softReset.ports.sink = s.ports.sink := rfl
@[simp] theorem State.softReset_ports_kin (s : State) : s.softReset.ports.kin = s.ports.kin := rfl
@[simp] theorem State.softReset_ports_drw (s : State) : s.softReset.ports.drw = s.ports.drw := rfl
@[simp] theorem State.softReset_ports_trace (s : State) :
    s.softReset.ports.trace = .rsp (respWord .none 0) :: s.ports.trace := rfl

/-! `State.withRst`, `State.abandoned` and `Ports.cross` -/

@[simp] theorem State.withRst_build (x : ResetPin) (s : State) : (s.withRst x).build = s.build := rfl
@[simp] theorem State.withRst_regs (x : ResetPin) (s : State) : (s.withRst x).regs = s.regs := rfl
@[simp] theorem State.withRst_job (x : ResetPin) (s : State) : (s.withRst x).job = s.job := rfl
@[simp] theorem State.withRst_ports_rst (x : ResetPin) (s : State) : (s.withRst x).ports.rst = x := rfl
@[simp] theorem State.withRst_ports_cmd (x : ResetPin) (s : State) : (s.withRst x).ports.cmd = s.ports.cmd := rfl
@[simp] theorem State.withRst_ports_din (x : ResetPin) (s : State) : (s.withRst x).ports.din = s.ports.din := rfl
@[simp] theorem State.withRst_ports_sink (x : ResetPin) (s : State) : (s.withRst x).ports.sink = s.ports.sink := rfl
@[simp] theorem State.withRst_ports_kin (x : ResetPin) (s : State) : (s.withRst x).ports.kin = s.ports.kin := rfl
@[simp] theorem State.withRst_ports_drw (x : ResetPin) (s : State) : (s.withRst x).ports.drw = s.ports.drw := rfl
@[simp] theorem State.withRst_ports_trace (x : ResetPin) (s : State) : (s.withRst x).ports.trace = s.ports.trace := rfl

@[simp] theorem State.abandoned_build (s : State) (k : Nat) (t : State) : (s.abandoned k t).build = s.build := rfl
@[simp] theorem State.abandoned_regs (s : State) (k : Nat) (t : State) : (s.abandoned k t).regs = resetRegs := rfl
@[simp] theorem State.abandoned_job (s : State) (k : Nat) (t : State) : (s.abandoned k t).job = none := rfl

@[simp] theorem Ports.cross_rst (p : Ports) (x : Item) : (p.cross x).rst = p.rst := by cases x <;> rfl
@[simp] theorem Ports.cross_trace (p : Ports) (x : Item) : (p.cross x).trace = x :: p.trace := by cases x <;> rfl

/-! `State.configured` -/

@[simp] theorem State.configured_build (s : State) (r : Regs) : (s.configured r).build = s.build := rfl
@[simp] theorem State.configured_regs (s : State) (r : Regs) : (s.configured r).regs = r := rfl
@[simp] theorem State.configured_job (s : State) (r : Regs) : (s.configured r).job = none := rfl
@[simp] theorem State.configured_ports_rst (s : State) (r : Regs) : (s.configured r).ports.rst = s.ports.rst := rfl
@[simp] theorem State.configured_ports_cmd (s : State) (r : Regs) : (s.configured r).ports.cmd = s.ports.cmd := rfl
@[simp] theorem State.configured_ports_din (s : State) (r : Regs) : (s.configured r).ports.din = s.ports.din := rfl
@[simp] theorem State.configured_ports_sink (s : State) (r : Regs) : (s.configured r).ports.sink = s.ports.sink := rfl
@[simp] theorem State.configured_ports_kin (s : State) (r : Regs) : (s.configured r).ports.kin = s.ports.kin := rfl
@[simp] theorem State.configured_ports_drw (s : State) (r : Regs) : (s.configured r).ports.drw = s.ports.drw := rfl
@[simp] theorem State.configured_ports_trace (s : State) (r : Regs) :
    (s.configured r).ports.trace = .rsp (respWord .none 0) :: s.ports.trace := rfl

/-! `State.ask` -/

@[simp] theorem State.ask_build (k : DrawKind) (p : DrawPoint) (u : ByteUse) (s : State) : (s.ask k p u).build = s.build := rfl
@[simp] theorem State.ask_regs (k : DrawKind) (p : DrawPoint) (u : ByteUse) (s : State) : (s.ask k p u).regs = s.regs := rfl
@[simp] theorem State.ask_job (k : DrawKind) (p : DrawPoint) (u : ByteUse) (s : State) : (s.ask k p u).job = some (.draw p u) := rfl
@[simp] theorem State.ask_ports_rst (k : DrawKind) (p : DrawPoint) (u : ByteUse) (s : State) : (s.ask k p u).ports.rst = s.ports.rst := rfl
@[simp] theorem State.ask_ports_cmd (k : DrawKind) (p : DrawPoint) (u : ByteUse) (s : State) : (s.ask k p u).ports.cmd = s.ports.cmd := rfl
@[simp] theorem State.ask_ports_din (k : DrawKind) (p : DrawPoint) (u : ByteUse) (s : State) : (s.ask k p u).ports.din = s.ports.din := rfl
@[simp] theorem State.ask_ports_sink (k : DrawKind) (p : DrawPoint) (u : ByteUse) (s : State) : (s.ask k p u).ports.sink = s.ports.sink := rfl
@[simp] theorem State.ask_ports_kin (k : DrawKind) (p : DrawPoint) (u : ByteUse) (s : State) : (s.ask k p u).ports.kin = s.ports.kin := rfl
@[simp] theorem State.ask_ports_drw (k : DrawKind) (p : DrawPoint) (u : ByteUse) (s : State) : (s.ask k p u).ports.drw = s.ports.drw := rfl
@[simp] theorem State.ask_ports_trace (k : DrawKind) (p : DrawPoint) (u : ByteUse) (s : State) :
    (s.ask k p u).ports.trace = .drq k :: s.ports.trace := rfl

/-! `State.evolved` -/

@[simp] theorem State.evolved_build (s : State) : s.evolved.build = s.build := rfl
@[simp] theorem State.evolved_regs (s : State) : s.evolved.regs = evolveTimes s.regs.ipb.toNat s.regs := rfl
@[simp] theorem State.evolved_ports (s : State) : s.evolved.ports = s.ports := rfl
@[simp] theorem State.evolved_job (s : State) : s.evolved.job = s.job := rfl

/-! `State.produced` -/

@[simp] theorem State.produced_build (s : State) : s.produced.build = s.build := rfl
@[simp] theorem State.produced_regs (s : State) : s.produced.regs = afterByte s.regs := rfl
@[simp] theorem State.produced_ports (s : State) : s.produced.ports = s.ports := rfl
@[simp] theorem State.produced_job (s : State) : s.produced.job = s.job := rfl

/-! `evolve` -/

@[simp] theorem evolve_phase (r : Regs) : (evolve r).phase = r.phase := rfl
@[simp] theorem evolve_err (r : Regs) : (evolve r).err = r.err := rfl
@[simp] theorem evolve_degr (r : Regs) : (evolve r).degr = r.degr := rfl
@[simp] theorem evolve_size (r : Regs) : (evolve r).size = r.size := rfl
@[simp] theorem evolve_rlen (r : Regs) : (evolve r).rlen = r.rlen := rfl
@[simp] theorem evolve_cur (r : Regs) : (evolve r).cur = BitVec.ofNat 8 ((r.cur.toNat + 1) % r.rlen.toNat) := rfl
@[simp] theorem evolve_c1 (r : Regs) : (evolve r).c1 = r.c1 := rfl
@[simp] theorem evolve_c2 (r : Regs) : (evolve r).c2 = r.c2 := rfl
@[simp] theorem evolve_ipb (r : Regs) : (evolve r).ipb = r.ipb := rfl
@[simp] theorem evolve_warm (r : Regs) : (evolve r).warm = r.warm := rfl
@[simp] theorem evolve_mode (r : Regs) : (evolve r).mode = r.mode := rfl
@[simp] theorem evolve_dlen (r : Regs) : (evolve r).dlen = r.dlen := rfl
@[simp] theorem evolve_kacc (r : Regs) : (evolve r).kacc = r.kacc := rfl
@[simp] theorem evolve_xi (r : Regs) : (evolve r).xi = r.xi := rfl
@[simp] theorem evolve_rs (r : Regs) : (evolve r).rs = r.rs := rfl
@[simp] theorem evolve_dig (r : Regs) : (evolve r).dig = r.dig := rfl
@[simp] theorem evolve_grid (r : Regs) : (evolve r).grid = evolveCells (r.rs.read r.cur.toNat) r.grid := rfl

/-! `afterByte` -/

@[simp] theorem afterByte_phase (r : Regs) : (afterByte r).phase = .running := rfl
@[simp] theorem afterByte_err (r : Regs) : (afterByte r).err = r.err := rfl
@[simp] theorem afterByte_degr (r : Regs) : (afterByte r).degr = r.degr := rfl
@[simp] theorem afterByte_size (r : Regs) : (afterByte r).size = r.size := rfl
@[simp] theorem afterByte_rlen (r : Regs) : (afterByte r).rlen = r.rlen := rfl
@[simp] theorem afterByte_cur (r : Regs) : (afterByte r).cur = r.cur := rfl
@[simp] theorem afterByte_c1 (r : Regs) : (afterByte r).c1 = r.c1 := rfl
@[simp] theorem afterByte_c2 (r : Regs) : (afterByte r).c2 = r.c2 := rfl
@[simp] theorem afterByte_ipb (r : Regs) : (afterByte r).ipb = r.ipb := rfl
@[simp] theorem afterByte_warm (r : Regs) : (afterByte r).warm = r.warm := rfl
@[simp] theorem afterByte_mode (r : Regs) : (afterByte r).mode = r.mode := rfl
@[simp] theorem afterByte_dlen (r : Regs) : (afterByte r).dlen = r.dlen := rfl
@[simp] theorem afterByte_kacc (r : Regs) : (afterByte r).kacc = BitVec.ofNat 20 ((r.kacc.toNat + r.c1.toNat) % r.n) := rfl
@[simp] theorem afterByte_xi (r : Regs) : (afterByte r).xi = r.xi := rfl
@[simp] theorem afterByte_rs (r : Regs) : (afterByte r).rs = r.rs := rfl
@[simp] theorem afterByte_dig (r : Regs) : (afterByte r).dig = r.dig := rfl
@[simp] theorem afterByte_grid (r : Regs) : (afterByte r).grid = r.grid := rfl

/-! `flipCell` -/

@[simp] theorem flipCell_phase (d : Word) (r : Regs) : (flipCell d r).phase = r.phase := rfl
@[simp] theorem flipCell_err (d : Word) (r : Regs) : (flipCell d r).err = r.err := rfl
@[simp] theorem flipCell_degr (d : Word) (r : Regs) : (flipCell d r).degr = r.degr := rfl
@[simp] theorem flipCell_size (d : Word) (r : Regs) : (flipCell d r).size = r.size := rfl
@[simp] theorem flipCell_rlen (d : Word) (r : Regs) : (flipCell d r).rlen = r.rlen := rfl
@[simp] theorem flipCell_cur (d : Word) (r : Regs) : (flipCell d r).cur = r.cur := rfl
@[simp] theorem flipCell_c1 (d : Word) (r : Regs) : (flipCell d r).c1 = r.c1 := rfl
@[simp] theorem flipCell_c2 (d : Word) (r : Regs) : (flipCell d r).c2 = r.c2 := rfl
@[simp] theorem flipCell_ipb (d : Word) (r : Regs) : (flipCell d r).ipb = r.ipb := rfl
@[simp] theorem flipCell_warm (d : Word) (r : Regs) : (flipCell d r).warm = r.warm := rfl
@[simp] theorem flipCell_mode (d : Word) (r : Regs) : (flipCell d r).mode = r.mode := rfl
@[simp] theorem flipCell_dlen (d : Word) (r : Regs) : (flipCell d r).dlen = r.dlen := rfl
@[simp] theorem flipCell_kacc (d : Word) (r : Regs) : (flipCell d r).kacc = r.kacc := rfl
@[simp] theorem flipCell_xi (d : Word) (r : Regs) : (flipCell d r).xi = r.xi := rfl
@[simp] theorem flipCell_rs (d : Word) (r : Regs) : (flipCell d r).rs = r.rs := rfl
@[simp] theorem flipCell_dig (d : Word) (r : Regs) : (flipCell d r).dig = r.dig := rfl
@[simp] theorem flipCell_grid (d : Word) (r : Regs) : (flipCell d r).grid = r.grid.set (r.drawnIndex d) (!cell r.grid (r.drawnIndex d)) := rfl

/-! `trialCell` -/

@[simp] theorem trialCell_phase (d : Word) (r : Regs) : (trialCell d r).phase = r.phase := rfl
@[simp] theorem trialCell_err (d : Word) (r : Regs) : (trialCell d r).err = r.err := rfl
@[simp] theorem trialCell_degr (d : Word) (r : Regs) : (trialCell d r).degr = r.degr := rfl
@[simp] theorem trialCell_size (d : Word) (r : Regs) : (trialCell d r).size = r.size := rfl
@[simp] theorem trialCell_rlen (d : Word) (r : Regs) : (trialCell d r).rlen = r.rlen := rfl
@[simp] theorem trialCell_cur (d : Word) (r : Regs) : (trialCell d r).cur = r.cur := rfl
@[simp] theorem trialCell_c1 (d : Word) (r : Regs) : (trialCell d r).c1 = r.c1 := rfl
@[simp] theorem trialCell_c2 (d : Word) (r : Regs) : (trialCell d r).c2 = r.c2 := rfl
@[simp] theorem trialCell_ipb (d : Word) (r : Regs) : (trialCell d r).ipb = r.ipb := rfl
@[simp] theorem trialCell_warm (d : Word) (r : Regs) : (trialCell d r).warm = r.warm := rfl
@[simp] theorem trialCell_mode (d : Word) (r : Regs) : (trialCell d r).mode = r.mode := rfl
@[simp] theorem trialCell_dlen (d : Word) (r : Regs) : (trialCell d r).dlen = r.dlen := rfl
@[simp] theorem trialCell_kacc (d : Word) (r : Regs) : (trialCell d r).kacc = r.kacc := rfl
@[simp] theorem trialCell_xi (d : Word) (r : Regs) : (trialCell d r).xi = r.xi := rfl
@[simp] theorem trialCell_rs (d : Word) (r : Regs) : (trialCell d r).rs = r.rs := rfl
@[simp] theorem trialCell_dig (d : Word) (r : Regs) : (trialCell d r).dig = r.dig := rfl
@[simp] theorem trialCell_grid (d : Word) (r : Regs) :
    (trialCell d r).grid =
      r.grid.set (r.drawnIndex d)
        (cell r.grid (r.drawnIndex d) ^^ cell r.grid (r.oppositeIndex (r.drawnIndex d))) := rfl

/-! `seededRegs` -/

@[simp] theorem seededRegs_phase (r : Regs) : (seededRegs r).phase = .seeded := rfl
@[simp] theorem seededRegs_err (r : Regs) : (seededRegs r).err = r.err := rfl
@[simp] theorem seededRegs_degr (r : Regs) : (seededRegs r).degr = r.degr := rfl
@[simp] theorem seededRegs_size (r : Regs) : (seededRegs r).size = r.size := rfl
@[simp] theorem seededRegs_rlen (r : Regs) : (seededRegs r).rlen = r.rlen := rfl
@[simp] theorem seededRegs_cur (r : Regs) : (seededRegs r).cur = 0#8 := rfl
@[simp] theorem seededRegs_c1 (r : Regs) : (seededRegs r).c1 = r.c1 := rfl
@[simp] theorem seededRegs_c2 (r : Regs) : (seededRegs r).c2 = r.c2 := rfl
@[simp] theorem seededRegs_ipb (r : Regs) : (seededRegs r).ipb = r.ipb := rfl
@[simp] theorem seededRegs_warm (r : Regs) : (seededRegs r).warm = r.warm := rfl
@[simp] theorem seededRegs_mode (r : Regs) : (seededRegs r).mode = r.mode := rfl
@[simp] theorem seededRegs_dlen (r : Regs) : (seededRegs r).dlen = r.dlen := rfl
@[simp] theorem seededRegs_kacc (r : Regs) : (seededRegs r).kacc = 0#20 := rfl
@[simp] theorem seededRegs_xi (r : Regs) : (seededRegs r).xi = r.xi := rfl
@[simp] theorem seededRegs_rs (r : Regs) : (seededRegs r).rs = r.rs := rfl
@[simp] theorem seededRegs_dig (r : Regs) : (seededRegs r).dig = r.dig := rfl
@[simp] theorem seededRegs_grid (r : Regs) : (seededRegs r).grid = r.grid := rfl

/-! `loadCells` -/

@[simp] theorem loadCells_phase (v : Byte) (r : Regs) : (loadCells v r).phase = r.phase := rfl
@[simp] theorem loadCells_err (v : Byte) (r : Regs) : (loadCells v r).err = r.err := rfl
@[simp] theorem loadCells_degr (v : Byte) (r : Regs) : (loadCells v r).degr = r.degr := rfl
@[simp] theorem loadCells_size (v : Byte) (r : Regs) : (loadCells v r).size = r.size := rfl
@[simp] theorem loadCells_rlen (v : Byte) (r : Regs) : (loadCells v r).rlen = r.rlen := rfl
@[simp] theorem loadCells_cur (v : Byte) (r : Regs) : (loadCells v r).cur = r.cur := rfl
@[simp] theorem loadCells_c1 (v : Byte) (r : Regs) : (loadCells v r).c1 = r.c1 := rfl
@[simp] theorem loadCells_c2 (v : Byte) (r : Regs) : (loadCells v r).c2 = r.c2 := rfl
@[simp] theorem loadCells_ipb (v : Byte) (r : Regs) : (loadCells v r).ipb = r.ipb := rfl
@[simp] theorem loadCells_warm (v : Byte) (r : Regs) : (loadCells v r).warm = r.warm := rfl
@[simp] theorem loadCells_mode (v : Byte) (r : Regs) : (loadCells v r).mode = r.mode := rfl
@[simp] theorem loadCells_dlen (v : Byte) (r : Regs) : (loadCells v r).dlen = r.dlen := rfl
@[simp] theorem loadCells_kacc (v : Byte) (r : Regs) : (loadCells v r).kacc = r.kacc := rfl
@[simp] theorem loadCells_xi (v : Byte) (r : Regs) : (loadCells v r).xi = r.xi := rfl
@[simp] theorem loadCells_rs (v : Byte) (r : Regs) : (loadCells v r).rs = r.rs := rfl
@[simp] theorem loadCells_dig (v : Byte) (r : Regs) : (loadCells v r).dig = r.dig := rfl
@[simp] theorem loadCells_grid (v : Byte) (r : Regs) : (loadCells v r).grid = (r.grid ++ bitsOf v).take r.n := rfl

/-! The views `n`, `xmode` and `ent` of the updated registers -/

@[simp] theorem evolve_n (r : Regs) : (evolve r).n = r.n := rfl
@[simp] theorem evolve_xmode (r : Regs) : (evolve r).xmode = r.xmode := rfl
@[simp] theorem evolve_ent (r : Regs) : (evolve r).ent = r.ent := rfl
@[simp] theorem afterByte_n (r : Regs) : (afterByte r).n = r.n := rfl
@[simp] theorem afterByte_xmode (r : Regs) : (afterByte r).xmode = r.xmode := rfl
@[simp] theorem afterByte_ent (r : Regs) : (afterByte r).ent = r.ent := rfl
@[simp] theorem flipCell_n (d : Word) (r : Regs) : (flipCell d r).n = r.n := rfl
@[simp] theorem flipCell_xmode (d : Word) (r : Regs) : (flipCell d r).xmode = r.xmode := rfl
@[simp] theorem flipCell_ent (d : Word) (r : Regs) : (flipCell d r).ent = r.ent := rfl
@[simp] theorem trialCell_n (d : Word) (r : Regs) : (trialCell d r).n = r.n := rfl
@[simp] theorem trialCell_xmode (d : Word) (r : Regs) : (trialCell d r).xmode = r.xmode := rfl
@[simp] theorem trialCell_ent (d : Word) (r : Regs) : (trialCell d r).ent = r.ent := rfl
@[simp] theorem seededRegs_n (r : Regs) : (seededRegs r).n = r.n := rfl
@[simp] theorem seededRegs_xmode (r : Regs) : (seededRegs r).xmode = r.xmode := rfl
@[simp] theorem seededRegs_ent (r : Regs) : (seededRegs r).ent = r.ent := rfl
@[simp] theorem loadCells_n (v : Byte) (r : Regs) : (loadCells v r).n = r.n := rfl
@[simp] theorem loadCells_xmode (v : Byte) (r : Regs) : (loadCells v r).xmode = r.xmode := rfl
@[simp] theorem loadCells_ent (v : Byte) (r : Regs) : (loadCells v r).ent = r.ent := rfl

end Sys2Proof.Machine
end

