-- ==== Sys2Proof/Laws/Engine.lean ====
section
/-! SUPPORT. What the micro-operations on the registers keep: every register but the grid and the cursor, and the grid's
length. -/

namespace Sys2Proof.Machine

@[simp] theorem evolveCells_length (rule : Byte) (g : List Bool) : (evolveCells rule g).length = g.length := by
  simp [evolveCells, leftNeighbours, rightNeighbours]

@[simp] theorem bitsOf_length (v : Byte) : (bitsOf v).length = 8 := by simp [bitsOf]

@[simp] theorem seedGrid_length (r : Regs) : (seedGrid r).length = r.n := by simp [seedGrid]

@[simp] theorem mixGrid_length (r : Regs) : (mixGrid r).length = r.grid.length := by simp [mixGrid]

@[simp] theorem evolveTimes_zero (r : Regs) : evolveTimes 0 r = r := rfl

theorem evolveTimes_succ (k : Nat) (r : Regs) : evolveTimes (k + 1) r = evolveTimes k (evolve r) := rfl

theorem evolveTimes_add (k l : Nat) (r : Regs) : evolveTimes (k + l) r = evolveTimes l (evolveTimes k r) := by
  rw [evolveTimes, Nat.add_comm, Function.iterate_add_apply]; rfl

/-- What one generation keeps, many keep. -/
theorem evolveTimes_keeps {α : Type} (f : Regs → α) (h : ∀ r, f (evolve r) = f r) (k : Nat) (r : Regs) :
    f (evolveTimes k r) = f r := by
  induction k generalizing r with
  | zero => rfl
  | succ k ih => rw [evolveTimes_succ, ih, h]

@[simp] theorem evolveTimes_phase (k : Nat) (r : Regs) : (evolveTimes k r).phase = r.phase :=
  evolveTimes_keeps (·.phase) (fun _ => rfl) k r

@[simp] theorem evolveTimes_err (k : Nat) (r : Regs) : (evolveTimes k r).err = r.err :=
  evolveTimes_keeps (·.err) (fun _ => rfl) k r

@[simp] theorem evolveTimes_degr (k : Nat) (r : Regs) : (evolveTimes k r).degr = r.degr :=
  evolveTimes_keeps (·.degr) (fun _ => rfl) k r

@[simp] theorem evolveTimes_size (k : Nat) (r : Regs) : (evolveTimes k r).size = r.size :=
  evolveTimes_keeps (·.size) (fun _ => rfl) k r

@[simp] theorem evolveTimes_rlen (k : Nat) (r : Regs) : (evolveTimes k r).rlen = r.rlen :=
  evolveTimes_keeps (·.rlen) (fun _ => rfl) k r

@[simp] theorem evolveTimes_c1 (k : Nat) (r : Regs) : (evolveTimes k r).c1 = r.c1 :=
  evolveTimes_keeps (·.c1) (fun _ => rfl) k r

@[simp] theorem evolveTimes_c2 (k : Nat) (r : Regs) : (evolveTimes k r).c2 = r.c2 :=
  evolveTimes_keeps (·.c2) (fun _ => rfl) k r

@[simp] theorem evolveTimes_ipb (k : Nat) (r : Regs) : (evolveTimes k r).ipb = r.ipb :=
  evolveTimes_keeps (·.ipb) (fun _ => rfl) k r

@[simp] theorem evolveTimes_warm (k : Nat) (r : Regs) : (evolveTimes k r).warm = r.warm :=
  evolveTimes_keeps (·.warm) (fun _ => rfl) k r

@[simp] theorem evolveTimes_mode (k : Nat) (r : Regs) : (evolveTimes k r).mode = r.mode :=
  evolveTimes_keeps (·.mode) (fun _ => rfl) k r

@[simp] theorem evolveTimes_dlen (k : Nat) (r : Regs) : (evolveTimes k r).dlen = r.dlen :=
  evolveTimes_keeps (·.dlen) (fun _ => rfl) k r

@[simp] theorem evolveTimes_kacc (k : Nat) (r : Regs) : (evolveTimes k r).kacc = r.kacc :=
  evolveTimes_keeps (·.kacc) (fun _ => rfl) k r

@[simp] theorem evolveTimes_xi (k : Nat) (r : Regs) : (evolveTimes k r).xi = r.xi :=
  evolveTimes_keeps (·.xi) (fun _ => rfl) k r

@[simp] theorem evolveTimes_rs (k : Nat) (r : Regs) : (evolveTimes k r).rs = r.rs :=
  evolveTimes_keeps (·.rs) (fun _ => rfl) k r

@[simp] theorem evolveTimes_dig (k : Nat) (r : Regs) : (evolveTimes k r).dig = r.dig :=
  evolveTimes_keeps (·.dig) (fun _ => rfl) k r

@[simp] theorem evolveTimes_n (k : Nat) (r : Regs) : (evolveTimes k r).n = r.n :=
  evolveTimes_keeps (·.n) (fun _ => rfl) k r

@[simp] theorem evolveTimes_xmode (k : Nat) (r : Regs) : (evolveTimes k r).xmode = r.xmode :=
  evolveTimes_keeps (·.xmode) (fun _ => rfl) k r

@[simp] theorem evolveTimes_ent (k : Nat) (r : Regs) : (evolveTimes k r).ent = r.ent :=
  evolveTimes_keeps (·.ent) (fun _ => rfl) k r

@[simp] theorem evolveTimes_grid_length (k : Nat) (r : Regs) : (evolveTimes k r).grid.length = r.grid.length :=
  evolveTimes_keeps (·.grid.length) (fun r => by simp) k r

/-- After the evolutions the cursor has advanced modulo `RLEN`, from a cursor inside a schedule that fits its store. -/
theorem evolveTimes_cur (k : Nat) (r : Regs) (h : r.cur.toNat < r.rlen.toNat) (hl : r.rlen.toNat ≤ 256) :
    (evolveTimes k r).cur.toNat = (r.cur.toNat + k) % r.rlen.toNat := by
  induction k generalizing r with
  | zero => simp [Nat.mod_eq_of_lt h]
  | succ k ih =>
    have hlt := Nat.mod_lt (r.cur.toNat + 1) (show 0 < r.rlen.toNat by omega)
    have hc : (evolve r).cur.toNat = (r.cur.toNat + 1) % r.rlen.toNat := by
      simp only [evolve_cur, BitVec.toNat_ofNat]
      exact Nat.mod_eq_of_lt (by omega)
    rw [evolveTimes_succ, ih (evolve r) (by rw [hc]; simpa using hlt) (by simpa using hl), hc]
    simp [Nat.add_assoc, Nat.add_comm 1 k]

end Sys2Proof.Machine
end

