-- ==== Sys2Proof/Laws/Memory.lean ====
section
/-! SUPPORT. The laws of the byte stores: a read after a write, every other address unchanged, and the canonical form,
which every write keeps and in which equal contents are equal data. -/

namespace Sys2Proof.Machine

@[simp] theorem Memory.read_nil (a : Nat) : Memory.read [] a = Memory.unlisted := rfl

theorem Memory.read_cons (c : Host.Cell) (m : Memory) (a : Nat) :
    Memory.read (c :: m) a = if a = c.1 then c.2 else Memory.read m a := rfl

/-- An address below every entry reads as unlisted. -/
theorem Memory.read_below (m : Memory) (a : Nat) (h : ∀ c ∈ m, a < c.1) : m.read a = Memory.unlisted := by
  induction m with
  | nil => rfl
  | cons c m ih =>
    have hc := h c (by simp)
    rw [Memory.read_cons, if_neg (by omega), ih fun d hd => h d (by simp [hd])]

/-- The address just written reads as the byte written. -/
theorem Memory.read_write_same (m : Memory) (a : Nat) (v : Byte) (h : m.wf) : (m.write a v).read a = v := by
  induction m with
  | nil => unfold Memory.write; split <;> simp_all [Memory.read_cons]
  | cons c m ih =>
    obtain ⟨hs, hn⟩ := h
    obtain ⟨hlt, hs⟩ := List.pairwise_cons.1 hs
    have below : a ≤ c.1 → Memory.read m a = Memory.unlisted := fun hle =>
      Memory.read_below m a fun d hd => by have := hlt d hd; omega
    unfold Memory.write
    split
    · split
      · simp_all [Memory.read_cons, show a ≠ c.1 by omega, below (by omega)]
      · simp [Memory.read_cons]
    · split
      · split
        · simp_all
        · simp [Memory.read_cons]
      · simp_all [Memory.read_cons, ih ⟨hs, fun d hd => hn d (by simp [hd])⟩]

/-- Every other address reads as before. -/
theorem Memory.read_write_other (m : Memory) (a b : Nat) (v : Byte) (h : b ≠ a) : (m.write a v).read b = m.read b := by
  induction m with
  | nil => unfold Memory.write; split <;> simp [Memory.read_cons, h]
  | cons c m ih =>
    unfold Memory.write
    split
    · split <;> simp [Memory.read_cons, h]
    · split
      · split <;> simp_all [Memory.read_cons]
      · simp [Memory.read_cons, ih]

/-- The addresses listed after a write are the old ones and the address written. -/
theorem Memory.mem_write_addr (m : Memory) (a : Nat) (v : Byte) (c : Host.Cell) (h : c ∈ m.write a v) :
    c.1 = a ∨ c ∈ m := by
  induction m with
  | nil => unfold Memory.write at h; split at h <;> simp_all
  | cons d m ih =>
    unfold Memory.write at h
    split at h
    · split at h <;> aesop
    · split at h
      · split at h <;> aesop
      · aesop

/-- A write keeps the canonical form. -/
theorem Memory.write_wf (m : Memory) (a : Nat) (v : Byte) (h : m.wf) : (m.write a v).wf := by
  induction m with
  | nil => unfold Memory.write; split <;> simp_all [Memory.wf]
  | cons c m ih =>
    obtain ⟨hs, hn⟩ := h
    obtain ⟨hlt, hs'⟩ := List.pairwise_cons.1 hs
    have hn' : ∀ d ∈ m, d.2 ≠ Memory.unlisted := fun d hd => hn d (by simp [hd])
    unfold Memory.write
    split
    · next hac =>
      split
      · exact ⟨hs, hn⟩
      · next hv =>
        refine ⟨List.pairwise_cons.2 ⟨?_, hs⟩, ?_⟩
        · intro d hd
          rcases List.mem_cons.1 hd with rfl | hd
          · exact hac
          · exact Nat.lt_trans hac (hlt d hd)
        · intro d hd
          rcases List.mem_cons.1 hd with rfl | hd
          · exact hv
          · exact hn d hd
    · split
      · next hac =>
        split
        · exact ⟨hs', hn'⟩
        · next hv =>
          refine ⟨List.pairwise_cons.2 ⟨fun d hd => hac ▸ hlt d hd, hs'⟩, ?_⟩
          intro d hd
          rcases List.mem_cons.1 hd with rfl | hd
          · exact hv
          · exact hn' d hd
      · next hlt' hne =>
        obtain ⟨ihs, ihn⟩ := ih ⟨hs', hn'⟩
        refine ⟨List.pairwise_cons.2 ⟨fun d hd => ?_, ihs⟩, ?_⟩
        · rcases Memory.mem_write_addr m a v d hd with h1 | h1
          · show c.1 < d.1
            omega
          · exact hlt d h1
        · intro d hd
          rcases List.mem_cons.1 hd with rfl | hd
          · exact hn _ (by simp)
          · exact ihn d hd

/-- A listed address of a canonical store does not read as unlisted. -/
theorem Memory.read_listed (m : Memory) (c : Host.Cell) (h : m.wf) (hc : c ∈ m) : m.read c.1 = c.2 := by
  induction m with
  | nil => simp at hc
  | cons d m ih =>
    obtain ⟨hs, hn⟩ := h
    obtain ⟨hlt, hs'⟩ := List.pairwise_cons.1 hs
    rw [Memory.read_cons]
    rcases List.mem_cons.1 hc with rfl | hc
    · simp
    · have := hlt c hc
      rw [if_neg (by omega), ih ⟨hs', fun e he => hn e (by simp [he])⟩ hc]

/-- Two canonical stores with the same contents are the same data. -/
theorem Memory.ext_of_read (m k : Memory) (hm : m.wf) (hk : k.wf) (h : ∀ a, m.read a = k.read a) : m = k := by
  induction m generalizing k with
  | nil =>
    match k, hk with
    | [], _ => rfl
    | (b, x) :: k, hk =>
      have := h b
      simp only [Memory.read_nil, Memory.read_cons, if_true] at this
      exact absurd this.symm (hk.2 (b, x) (by simp))
  | cons c m ih =>
    match k, hk with
    | [], _ =>
      have := h c.1
      simp only [Memory.read_nil, Memory.read_cons, if_true] at this
      exact absurd this (hm.2 c (by simp))
    | d :: k, hk =>
      obtain ⟨hms, hmn⟩ := hm
      obtain ⟨hml, hms'⟩ := List.pairwise_cons.1 hms
      obtain ⟨hks, hkn⟩ := hk
      obtain ⟨hkl, hks'⟩ := List.pairwise_cons.1 hks
      have hc := h c.1
      have hd := h d.1
      simp only [Memory.read_cons, if_true] at hc hd
      have hcd : c.1 = d.1 := by
        rcases Nat.lt_trichotomy c.1 d.1 with hlt | heq | hgt
        · rw [if_neg (by omega), Memory.read_below k _ fun e he => by have := hkl e he; omega] at hc
          exact absurd hc (hmn c (by simp))
        · exact heq
        · rw [if_neg (by omega), Memory.read_below m _ fun e he => by have := hml e he; omega] at hd
          exact absurd hd.symm (hkn d (by simp))
      rw [if_pos hcd] at hc
      have htail : m = k := by
        refine ih k ⟨hms', fun e he => hmn e (by simp [he])⟩ ⟨hks', fun e he => hkn e (by simp [he])⟩ fun a => ?_
        have ha := h a
        simp only [Memory.read_cons] at ha
        by_cases hac : a = c.1
        · subst hac
          rw [Memory.read_below m _ hml, Memory.read_below k _ fun e he => by have := hkl e he; omega]
        · rwa [if_neg hac, if_neg (by omega)] at ha
      rw [htail, Prod.ext hcd hc]

end Sys2Proof.Machine
end

