-- ==== Sys2Proof/Laws/Ops.lean ====
section
/-! SUPPORT. What each shared operation can do, said once: the checks before a command, taking an item from a port, the
effect of one advance of a command in progress on the ports, and running a command to its response or its next wait. -/

namespace Sys2Proof.Machine

/-! ## The checks before a command (R251) -/

theorem guarded_in_fault {i : Instr} {body : State → State} {s : State} (h : s.regs.phase = .fault) :
    guarded i body s = .next s.dropped := by simp [guarded, h]

theorem guarded_ill_formed {i : Instr} {body : State → State} {s : State} (h : s.regs.phase ≠ .fault)
    (hw : i.wellFormed = false) : guarded i body s = .next (s.raise .illegal) := by simp [guarded, h, hw]

theorem guarded_wrong_phase {i : Instr} {body : State → State} {s : State} (h : s.regs.phase ≠ .fault)
    (hw : i.wellFormed = true) (hl : legalIn i s.regs.phase = false) :
    guarded i body s = .next (s.raise .phase) := by simp [guarded, h, hw, hl]

theorem guarded_runs {i : Instr} {body : State → State} {s : State} (h : s.regs.phase ≠ .fault)
    (hw : i.wellFormed = true) (hl : legalIn i s.regs.phase = true) :
    guarded i body s = .next (body s) := by simp [guarded, h, hw, hl]

/-- Everything a guarded command can do. -/
theorem guarded_cases {i : Instr} {body : State → State} {s t : State} (h : guarded i body s = .next t) :
    (s.regs.phase = .fault ∧ t = s.dropped) ∨
      (s.regs.phase ≠ .fault ∧ i.wellFormed = false ∧ t = s.raise .illegal) ∨
      (s.regs.phase ≠ .fault ∧ i.wellFormed = true ∧ legalIn i s.regs.phase = false ∧ t = s.raise .phase) ∨
      (s.regs.phase ≠ .fault ∧ i.wellFormed = true ∧ legalIn i s.regs.phase = true ∧ t = body s) := by
  simp only [guarded, Host.Outcome.next.injEq] at h
  split at h
  · next hf => exact .inl ⟨hf, h.symm⟩
  · next hf =>
    split at h
    · next hw => exact .inr (.inl ⟨hf, hw, h.symm⟩)
    · next hw =>
      have hw : i.wellFormed = true := by simpa using hw
      split at h
      · next hl => exact .inr (.inr (.inl ⟨hf, hw, hl, h.symm⟩))
      · next hl => exact .inr (.inr (.inr ⟨hf, hw, by simpa using hl, h.symm⟩))

/-! ## Taking an item from a port (R15) -/

theorem State.takeCmd_eq_some {s t : State} {w : Word} :
    s.takeCmd = some (w, t) ↔
      ∃ rest, s.ports.cmd = w :: rest ∧
        t = { s with ports := { s.ports with cmd := rest, trace := .cmd w :: s.ports.trace } } := by
  unfold State.takeCmd; split <;> simp_all [eq_comm]

theorem State.takeDin_eq_some {s t : State} {d : Symbol} :
    s.takeDin = some (d, t) ↔
      ∃ rest, s.ports.din = d :: rest ∧
        t = { s with ports := { s.ports with din := rest, trace := .din d :: s.ports.trace } } := by
  unfold State.takeDin; split <;> simp_all [eq_comm]

theorem State.takeAnswer_eq_some {v : Byte} {s t : State} {a : Answer} :
    s.takeAnswer v = some (a, t) ↔
      ∃ rest, s.ports.sink = a :: rest ∧
        t = { s with ports := { s.ports with sink := rest, trace := .dout v a :: s.ports.trace } } := by
  unfold State.takeAnswer; split <;> simp_all [eq_comm]

theorem State.takeKey_eq_some {s t : State} {v : Byte} :
    s.takeKey = some (v, t) ↔
      ∃ rest, s.ports.kin = v :: rest ∧
        t = { s with ports := { s.ports with kin := rest, trace := .kin v :: s.ports.trace } } := by
  unfold State.takeKey; split <;> simp_all [eq_comm]

theorem State.takeDraw_eq_some {s t : State} {d : Word} :
    s.takeDraw = some (d, t) ↔
      ∃ rest, s.ports.drw = d :: rest ∧
        t = { s with ports := { s.ports with drw := rest, trace := .drw d :: s.ports.trace } } := by
  unfold State.takeDraw; split <;> simp_all [eq_comm]

theorem State.takeDin_eq_none {s : State} : s.takeDin = none ↔ s.ports.din = [] := by
  unfold State.takeDin; split <;> simp_all

theorem State.takeAnswer_eq_none {v : Byte} {s : State} : s.takeAnswer v = none ↔ s.ports.sink = [] := by
  unfold State.takeAnswer; split <;> simp_all

theorem State.takeKey_eq_none {s : State} : s.takeKey = none ↔ s.ports.kin = [] := by
  unfold State.takeKey; split <;> simp_all

theorem State.takeDraw_eq_none {s : State} : s.takeDraw = none ↔ s.ports.drw = [] := by
  unfold State.takeDraw; split <;> simp_all

/-! ## The part of a command between two waits takes nothing from a port -/

/-- The input queues, `RST` and the build are the same. -/
def SameInputs (s t : State) : Prop :=
  t.build = s.build ∧ t.ports.rst = s.ports.rst ∧ t.ports.cmd = s.ports.cmd ∧ t.ports.din = s.ports.din ∧
    t.ports.sink = s.ports.sink ∧ t.ports.kin = s.ports.kin ∧ t.ports.drw = s.ports.drw

theorem SameInputs.refl (s : State) : SameInputs s s := ⟨rfl, rfl, rfl, rfl, rfl, rfl, rfl⟩

theorem SameInputs.trans {s t u : State} (h : SameInputs s t) (k : SameInputs t u) : SameInputs s u := by
  obtain ⟨h1, h2, h3, h4, h5, h6, h7⟩ := h
  obtain ⟨k1, k2, k3, k4, k5, k6, k7⟩ := k
  exact ⟨k1.trans h1, k2.trans h2, k3.trans h3, k4.trans h4, k5.trans h5, k6.trans h6, k7.trans h7⟩

theorem SameInputs.queued {s t : State} (h : SameInputs s t) : t.ports.queued = s.ports.queued := by
  obtain ⟨-, -, -, h4, h5, h6, h7⟩ := h
  simp [Ports.queued, h4, h5, h6, h7]

theorem withRegs_same (s : State) (r : Regs) : SameInputs s (s.withRegs r) := SameInputs.refl s
theorem wait_same (j : Job) (s : State) : SameInputs s (s.wait j) := SameInputs.refl s
theorem emit_same (x : Item) (s : State) : SameInputs s (s.emit x) := SameInputs.refl s
theorem rsp_same (e : Err) (p : Nat) (s : State) : SameInputs s (s.rsp e p) := SameInputs.refl s
theorem raise_same (c : Err) (s : State) : SameInputs s (s.raise c) := SameInputs.refl s
theorem ask_same (k : DrawKind) (p : DrawPoint) (u : ByteUse) (s : State) : SameInputs s (s.ask k p u) :=
  SameInputs.refl s
theorem evolved_same (s : State) : SameInputs s s.evolved := SameInputs.refl s
theorem produced_same (s : State) : SameInputs s s.produced := SameInputs.refl s

theorem seedRawSymbol_same (cnt : Nat) (d : Symbol) (s : State) : SameInputs s (seedRawSymbol cnt d s) := by
  unfold seedRawSymbol; split
  · exact raise_same _ _
  · split <;> exact SameInputs.refl s
  · split <;> exact SameInputs.refl s

theorem streamOffer_same (src : KeySource) (cnt : Nat) (last : Bool) (bytes : List Byte) (s : State) :
    SameInputs s (streamOffer src cnt last bytes s) := by
  unfold streamOffer; split
  · exact wait_same _ _
  · split <;> exact SameInputs.refl s

theorem keyBytes_same (cnt : Nat) (last : Bool) (ib : List Byte) (left : Nat) (kb : List Byte) (s : State) :
    SameInputs s (keyBytes cnt last ib left kb s) := by
  induction left generalizing kb s with
  | zero => exact streamOffer_same _ _ _ _ _
  | succ left ih =>
    unfold keyBytes; split
    · exact ask_same _ _ _ _
    · exact SameInputs.trans (t := s.evolved.produced) (SameInputs.refl s) (ih _ _)

theorem useByte_same (u : ByteUse) (v : Byte) (s : State) : SameInputs s (useByte u v s) := by
  cases u with
  | genb => exact rsp_same _ _ _
  | fill left cnt => exact wait_same _ _
  | key left cnt last ib kb => exact keyBytes_same _ _ _ _ _ _

theorem finishByte_same (u : ByteUse) (s : State) : SameInputs s (finishByte u s) :=
  (produced_same s).trans (useByte_same _ _ _)

theorem startByte_same (u : ByteUse) (s : State) : SameInputs s (startByte u s) := by
  unfold startByte; split
  · exact ask_same _ _ _ _
  · exact (evolved_same s).trans (finishByte_same _ _)

theorem nextTrial_same (u : ByteUse) (left : Nat) (s : State) : SameInputs s (nextTrial u left s) := by
  cases left with
  | zero => exact finishByte_same _ _
  | succ left => exact ask_same _ _ _ _

theorem drawAnswer_same (p : DrawPoint) (u : ByteUse) (d : Word) (s : State) : SameInputs s (drawAnswer p u d s) := by
  cases p with
  | gate2 =>
    unfold drawAnswer; simp only []; split
    · exact ask_same _ _ _ _
    · exact finishByte_same _ _
  | gate1 =>
    unfold drawAnswer; simp only []; split
    · exact ask_same _ _ _ _
    · exact nextTrial_same _ _ _
  | flip => exact (withRegs_same s _).trans (nextTrial_same _ _ _)
  | trial left => exact (withRegs_same s _).trans (nextTrial_same _ _ _)

theorem fillNext_same (left cnt : Nat) (s : State) : SameInputs s (fillNext left cnt s) := by
  cases left with
  | zero => exact rsp_same _ _ _
  | succ left => exact startByte_same _ _

theorem fillAnswer_same (left cnt : Nat) (a : Answer) (s : State) : SameInputs s (fillAnswer left cnt a s) := by
  cases a with
  | ok => exact fillNext_same _ _ _
  | ioerr => exact raise_same _ _

theorem keyFill_same (src : KeySource) (cnt : Nat) (last : Bool) (ib : List Byte) (s : State) :
    SameInputs s (keyFill src cnt last ib s) := by
  cases src with
  | int => exact keyBytes_same _ _ _ _ _ _
  | ext => exact SameInputs.refl s

theorem readSymbol_same (src : KeySource) (cnt : Nat) (ib : List Byte) (d : Symbol) (s : State) :
    SameInputs s (readSymbol src cnt ib d s) := by
  cases d with
  | ioErr => exact raise_same _ _
  | endFrame =>
    unfold readSymbol; simp only []; split
    · exact rsp_same _ _ _
    · exact keyFill_same _ _ _ _ _
  | data v =>
    unfold readSymbol; simp only []; split
    · exact wait_same _ _
    · exact keyFill_same _ _ _ _ _

theorem keyByte_same (cnt : Nat) (last : Bool) (ib kb : List Byte) (v : Byte) (s : State) :
    SameInputs s (keyByte cnt last ib kb v s) := by
  unfold keyByte; split
  · exact wait_same _ _
  · exact streamOffer_same _ _ _ _ _

theorem progress_same (cnt : Nat) (s : State) : SameInputs s (progress cnt s) := by
  unfold progress; split <;> exact SameInputs.refl s

theorem writeAnswer_same (src : KeySource) (cnt : Nat) (last : Bool) (rest : List Byte) (a : Answer) (s : State) :
    SameInputs s (writeAnswer src cnt last rest a s) := by
  cases a with
  | ok => exact (progress_same _ _).trans (streamOffer_same _ _ _ _ _)
  | ioerr => exact raise_same _ _

/-! ## One advance takes exactly one item -/

/-- One advance takes one item from one port, and leaves the build, `RST` and `CMD` alone. -/
theorem advance_takes {j : Job} {s t : State} (h : advance j s = some t) :
    t.ports.queued + 1 = s.ports.queued ∧ t.build = s.build ∧ t.ports.rst = s.ports.rst ∧
      t.ports.cmd = s.ports.cmd := by
  have fin : ∀ {u : State}, SameInputs u t → u.ports.queued + 1 = s.ports.queued → u.build = s.build →
      u.ports.rst = s.ports.rst → u.ports.cmd = s.ports.cmd →
      t.ports.queued + 1 = s.ports.queued ∧ t.build = s.build ∧ t.ports.rst = s.ports.rst ∧
        t.ports.cmd = s.ports.cmd := fun hs hq hb hr hc =>
    ⟨hs.queued ▸ hq, hs.1.trans hb, hs.2.1.trans hr, hs.2.2.1.trans hc⟩
  cases j with
  | seedRaw cnt =>
    obtain ⟨⟨d, u⟩, ht, rfl⟩ := Option.map_eq_some_iff.1 h
    obtain ⟨rest, hd, rfl⟩ := State.takeDin_eq_some.1 ht
    exact fin (seedRawSymbol_same _ _ _) (by simp [Ports.queued, hd]; omega) rfl rfl rfl
  | draw p u =>
    obtain ⟨⟨d, v⟩, ht, rfl⟩ := Option.map_eq_some_iff.1 h
    obtain ⟨rest, hd, rfl⟩ := State.takeDraw_eq_some.1 ht
    exact fin (drawAnswer_same _ _ _ _) (by simp [Ports.queued, hd]; omega) rfl rfl rfl
  | fillOut left cnt v =>
    obtain ⟨⟨a, u⟩, ht, rfl⟩ := Option.map_eq_some_iff.1 h
    obtain ⟨rest, hd, rfl⟩ := State.takeAnswer_eq_some.1 ht
    exact fin (fillAnswer_same _ _ _ _) (by simp [Ports.queued, hd]; omega) rfl rfl rfl
  | read src cnt ib =>
    obtain ⟨⟨d, u⟩, ht, rfl⟩ := Option.map_eq_some_iff.1 h
    obtain ⟨rest, hd, rfl⟩ := State.takeDin_eq_some.1 ht
    exact fin (readSymbol_same _ _ _ _ _) (by simp [Ports.queued, hd]; omega) rfl rfl rfl
  | keyIn cnt last ib kb =>
    obtain ⟨⟨v, u⟩, ht, rfl⟩ := Option.map_eq_some_iff.1 h
    obtain ⟨rest, hd, rfl⟩ := State.takeKey_eq_some.1 ht
    exact fin (keyByte_same _ _ _ _ _ _) (by simp [Ports.queued, hd]; omega) rfl rfl rfl
  | write src cnt last v rest =>
    obtain ⟨⟨a, u⟩, ht, rfl⟩ := Option.map_eq_some_iff.1 h
    obtain ⟨rest', hd, rfl⟩ := State.takeAnswer_eq_some.1 ht
    exact fin (writeAnswer_same _ _ _ _ _ _) (by simp [Ports.queued, hd]; omega) rfl rfl rfl

/-! ## Running the command in progress -/

/-- With no command in progress there is nothing to run. -/
theorem State.run_idle {s : State} (h : s.job = none) : s.run = s := by
  unfold State.run; cases s.ports.queued <;> simp [runFor, h]

/-- A command that waits on a port with no item stays where it is (R261). -/
theorem State.run_waiting {s : State} {j : Job} (h : s.job = some j) (ha : advance j s = none) : s.run = s := by
  unfold State.run; cases s.ports.queued <;> simp [runFor, h, ha]

/-- Running is: advance once, then run. -/
theorem State.run_advance {s t : State} {j : Job} (h : s.job = some j) (ha : advance j s = some t) : s.run = t.run := by
  have hq := (advance_takes ha).1
  unfold State.run
  rw [← hq]
  simp [runFor, h, ha]

/-- What every advance keeps, running keeps. -/
theorem State.run_keeps (P : State → Prop)
    (step : ∀ {s t : State} {j : Job}, P s → s.job = some j → advance j s = some t → P t) {s : State} (h : P s) :
    P s.run := by
  unfold State.run
  generalize s.ports.queued = k
  induction k generalizing s with
  | zero => exact h
  | succ k ih =>
    unfold runFor
    split
    · exact h
    · next j hj =>
      split
      · exact h
      · next t ht => exact ih (step h hj ht)

/-- A command that has been run either has responded or waits on a port with no item. -/
theorem State.run_waits {s : State} {j : Job} (h : s.run.job = some j) : advance j s.run = none := by
  unfold State.run at h ⊢
  generalize hk : s.ports.queued = k at h ⊢
  induction k generalizing s with
  | zero =>
    cases ha : advance j s with
    | none => exact ha
    | some t => have := (advance_takes ha).1; omega
  | succ k ih =>
    unfold runFor at h ⊢
    cases hj : s.job with
    | none => simp [hj] at h
    | some i =>
      cases ha : advance i s with
      | none =>
        have : i = j := by simpa [hj, ha] using h
        subst this
        simp [ha]
      | some t =>
        have hq := (advance_takes ha).1
        simp only [hj, ha] at h ⊢
        exact ih (by omega) h

end Sys2Proof.Machine
end

