-- ==== Sys2Proof/Laws/Operands.lean ====
section
/-! SUPPORT. The responses, faults and resets in the terms the statements use; the phase table as the two forms of it
agree; `Validate` as a set of ranges; the numbers of `RDREG`. -/

namespace Sys2Proof.Machine

/-! ## The end of a command -/

theorem State.rsp_eq_answered (e : Err) (p : Nat) (s : State) :
    s.rsp e p = s.answered s.regs (e.code ++ BitVec.ofNat 24 p) := rfl

theorem State.withRegs_rsp_eq_answered (e : Err) (p : Nat) (s : State) (r : Regs) :
    (s.withRegs r).rsp e p = s.answered r (e.code ++ BitVec.ofNat 24 p) := rfl

theorem State.configured_eq_answered (s : State) (r : Regs) : s.configured r = s.answered r 0#32 := rfl

theorem State.raise_eq_faulted (c : Err) (s : State) : s.raise c = s.faulted c := rfl

theorem State.dropped_eq_answered (s : State) : s.dropped = s.answered s.regs (s.regs.err.code ++ 0#24) := rfl

theorem State.softReset_eq_answered (s : State) : s.softReset = s.answered resetRegs 0#32 := rfl

/-! ## The phase table (R108) -/

/-- The table by constructor and the table by mnemonic agree outside FAULT. -/
theorem legalIn_eq_true_iff (i : Instr) (p : Phase) (h : p ≠ .fault) :
    legalIn i p = true ↔ p ∈ allowedPhases i.mnemonic := by
  cases i <;> simp only [Instr.mnemonic, legalIn] <;> revert h <;> cases p <;> decide

/-- A command that the table allows is not one of FAULT. -/
theorem ne_fault_of_legalIn {i : Instr} {p : Phase} (h : legalIn i p = true) : p ≠ .fault := by
  rintro rfl; cases i <;> simp [legalIn, Phase.unfaulted, Phase.isIdle, Phase.beforeWarmup, Phase.isSeeded,
    Phase.producing, Phase.active] at h

/-! ## `Validate` (R150) -/

/-- `Validate` passes exactly the configurations of R43. -/
theorem validate_eq_none_iff (b : Build) (r : Regs) : validate b r = .none ↔ ConfigOk b r := by
  have hr : r.rlen = 0#9 ↔ r.rlen.toNat = 0 := ⟨fun h => by simp [h], fun h => BitVec.eq_of_toNat_eq h⟩
  have hi : r.ipb = 0#20 ↔ r.ipb.toNat = 0 := ⟨fun h => by simp [h], fun h => BitVec.eq_of_toNat_eq h⟩
  unfold validate ConfigOk
  simp only [hr, hi]
  split
  · simp only [reduceCtorEq, false_iff]; omega
  · split
    · simp only [reduceCtorEq, false_iff]; omega
    · split
      · simp only [reduceCtorEq, false_iff]; omega
      · split
        · next h =>
          simp only [reduceCtorEq, false_iff]
          rintro ⟨-, -, -, h4⟩
          obtain ⟨hx, k, hk⟩ := h
          exact absurd (h4 hx k) (by omega)
        · next h =>
          refine ⟨fun _ => ⟨by omega, by omega, by omega, fun hx k => ?_⟩, fun _ => rfl⟩
          exact Nat.lt_of_not_ge fun hk => h ⟨hx, k, hk⟩

/-! ## The registers of `RDREG` (R42) -/

/-- A number from 0x18 up names an entry of the schedule store or nothing. -/
theorem State.register_above (s : State) (n : Nat) (h : 0x18 ≤ n) :
    s.register n =
      if 0x100 ≤ n ∧ n < 0x100 + s.build.lmax then some (s.regs.rs.read (n - 0x100)).toNat else none := by
  unfold State.register
  split <;> first | omega | rfl

/-- The numbers from 0x100 up are the entries of the schedule store. -/
theorem State.register_schedule (s : State) (k : Nat) (h : k < s.build.lmax) :
    s.register (0x100 + k) = some (s.regs.rs.read k).toNat := by
  rw [State.register_above s _ (by omega), if_pos (by omega), Nat.add_sub_cancel_left]

/-- The numbers 0x10 to 0x17 are the index registers. -/
theorem State.register_index (s : State) (k : Fin 8) : s.register (0x10 + k.val) = some (s.regs.xi[k]).toNat := by
  match k with
  | 0 => rfl
  | 1 => rfl
  | 2 => rfl
  | 3 => rfl
  | 4 => rfl
  | 5 => rfl
  | 6 => rfl
  | 7 => rfl

/-- Every other number names no register. -/
theorem State.register_unknown (s : State) (n : Nat)
    (h : (0x18 ≤ n ∧ n < 0x100) ∨ 0x100 + s.build.lmax ≤ n) : s.register n = none := by
  rw [State.register_above s _ (by omega), if_neg (by omega)]

end Sys2Proof.Machine
end

