-- ==== Sys2Proof/Laws/PerInstr.lean ====
section
/-! SUPPORT. A law stated per command: the opcode field of the encoded word is the opcode the map of R96 gives the
command's mnemonic. -/

namespace Sys2Proof.Laws.EncodeOpcode

/-- The opcode field of the command's word is the top byte of the pattern R96 prints for its mnemonic, and the command
has a row there. -/
def Statement (i : Instr) : Prop :=
  ∃ row ∈ opcodeRows, row.mnemonic = i.mnemonic ∧ opField (encode i) = opField row.pattern

theorem nop : Statement .nop :=
  ⟨opcodeRows[0], by decide, rfl, (opField_wordZ _).trans (by decide)⟩

theorem srst : Statement .srst :=
  ⟨opcodeRows[1], by decide, rfl, (opField_wordZ _).trans (by decide)⟩

theorem setn (n : Imm) : Statement (.setn n) :=
  ⟨opcodeRows[2], by decide, rfl, (opField_wordI _ _ _).trans (by decide)⟩

theorem rsclr : Statement .rsclr :=
  ⟨opcodeRows[3], by decide, rfl, (opField_wordZ _).trans (by decide)⟩

theorem rspush (imm : Imm) : Statement (.rspush imm) :=
  ⟨opcodeRows[4], by decide, rfl, (opField_wordI _ _ _).trans (by decide)⟩

theorem setc1 (v : Imm) : Statement (.setc1 v) :=
  ⟨opcodeRows[5], by decide, rfl, (opField_wordI _ _ _).trans (by decide)⟩

theorem setc2 (v : Imm) : Statement (.setc2 v) :=
  ⟨opcodeRows[6], by decide, rfl, (opField_wordI _ _ _).trans (by decide)⟩

theorem setipb (v : Imm) : Statement (.setipb v) :=
  ⟨opcodeRows[7], by decide, rfl, (opField_wordI _ _ _).trans (by decide)⟩

theorem setwarm (v : Imm) : Statement (.setwarm v) :=
  ⟨opcodeRows[8], by decide, rfl, (opField_wordI _ _ _).trans (by decide)⟩

theorem setmode (imm : Imm) : Statement (.setmode imm) :=
  ⟨opcodeRows[9], by decide, rfl, (opField_wordI _ _ _).trans (by decide)⟩

theorem setxi (sel : BitVec 4) (idx : Imm) : Statement (.setxi sel idx) :=
  ⟨opcodeRows[10], by decide, rfl, (opField_wordI _ _ _).trans (by decide)⟩

theorem setdlen (v : Imm) : Statement (.setdlen v) :=
  ⟨opcodeRows[11], by decide, rfl, (opField_wordI _ _ _).trans (by decide)⟩

theorem lddig (pos val : Byte) : Statement (.lddig pos val) :=
  ⟨opcodeRows[12], by decide, rfl, (opField_wordB _ _ _).trans (by decide)⟩

theorem seed : Statement .seed :=
  ⟨opcodeRows[13], by decide, rfl, (opField_wordZ _).trans (by decide)⟩

theorem seedraw : Statement .seedraw :=
  ⟨opcodeRows[14], by decide, rfl, (opField_wordZ _).trans (by decide)⟩

theorem mix : Statement .mix :=
  ⟨opcodeRows[15], by decide, rfl, (opField_wordZ _).trans (by decide)⟩

theorem warmup : Statement .warmup :=
  ⟨opcodeRows[16], by decide, rfl, (opField_wordZ _).trans (by decide)⟩

theorem genb : Statement .genb :=
  ⟨opcodeRows[17], by decide, rfl, (opField_wordZ _).trans (by decide)⟩

theorem fill (len : Imm) : Statement (.fill len) :=
  ⟨opcodeRows[18], by decide, rfl, (opField_wordI _ _ _).trans (by decide)⟩

theorem xstream : Statement .xstream :=
  ⟨opcodeRows[19], by decide, rfl, (opField_wordZ _).trans (by decide)⟩

theorem xstreamx : Statement .xstreamx :=
  ⟨opcodeRows[20], by decide, rfl, (opField_wordZ _).trans (by decide)⟩

theorem reval (nb : BitVec 3) (rule : Byte) : Statement (.reval nb rule) :=
  ⟨opcodeRows[21], by decide, rfl, (opField_wordR _ _ _).trans (by decide)⟩

theorem revalc (nb : BitVec 3) (rule : Byte) : Statement (.revalc nb rule) :=
  ⟨opcodeRows[22], by decide, rfl, (opField_wordR _ _ _).trans (by decide)⟩

theorem rdreg (num : Imm) : Statement (.rdreg num) :=
  ⟨opcodeRows[23], by decide, rfl, (opField_wordI _ _ _).trans (by decide)⟩

theorem rdcell (idx : Imm) : Statement (.rdcell idx) :=
  ⟨opcodeRows[24], by decide, rfl, (opField_wordI _ _ _).trans (by decide)⟩

end Sys2Proof.Laws.EncodeOpcode
end

