-- ==== Sys2Proof/Laws/Sequencer.lean ====
section
/-! SUPPORT. What a step can do, said once: it proceeds, it is a reset, or it is abandoned by `RST` at one of the items
that cross in it (R73, R265). -/

namespace Sys2Proof.Machine

/-- Everything `proceed` can do. -/
theorem proceed_cases {s t : State} (h : proceed s = .next t) :
    (∃ j, s.job = some j ∧ t = s.run) ∨
      (s.job = none ∧ s.ports.cmd = [] ∧ t = s) ∨
      (∃ w u i, s.job = none ∧ s.takeCmd = some (w, u) ∧ decode w = .ok i ∧ exec i u = .next t) ∨
      (∃ w u e, s.job = none ∧ s.takeCmd = some (w, u) ∧ decode w = .error e ∧ t = u.illegalCommand) := by
  unfold proceed at h
  split at h
  · next j hj => exact .inl ⟨j, hj, by simpa using h.symm⟩
  · next hj =>
    split at h
    · next hc =>
      have hc : s.ports.cmd = [] := by
        unfold State.takeCmd at hc
        split at hc
        · assumption
        · cases hc
      exact .inr (.inl ⟨hj, hc, by simpa using h.symm⟩)
    · next w u hc =>
      split at h
      · next i hi => exact .inr (.inr (.inl ⟨w, u, i, hj, hc, hi, h⟩))
      · next e he => exact .inr (.inr (.inr ⟨w, u, e, hj, hc, he, by simpa using h.symm⟩))

/-- Everything `resetWithin` can do. -/
theorem State.resetWithin_cases (s : State) (k : Nat) (t : State) :
    (k ≤ (s.ports.crossedTo t.ports).length ∧ s.resetWithin k t = s.abandoned k t) ∨
      ((s.ports.crossedTo t.ports).length < k ∧
        s.resetWithin k t = t.withRst (.assertedAfter (k - (s.ports.crossedTo t.ports).length))) := by
  unfold State.resetWithin
  split
  · next h => exact .inl ⟨h, rfl⟩
  · next h => exact .inr ⟨by omega, rfl⟩

/-- Everything a step can do. -/
theorem step_cases {s t : State} (h : step s = .next t) :
    (s.ports.rst = .released ∧ proceed s = .next t) ∨
      (s.ports.rst = .asserted ∧ t = s.cleared) ∨
      (∃ k u, s.ports.rst = .assertedAfter k ∧ proceed s = .next u ∧ t = s.resetWithin k u) := by
  unfold step at h
  split at h
  · next hr => exact .inl ⟨hr, h⟩
  · next hr => exact .inr (.inl ⟨hr, by simpa [State.hardReset] using h.symm⟩)
  · next k hr =>
    unfold proceedUntilReset at h
    split at h
    · next u hu => exact .inr (.inr ⟨k, u, hr, hu, by simpa using h.symm⟩)
    · cases h
    · cases h

/-- The items that have crossed, where the later record grows from the earlier one. -/
theorem Ports.crossedTo_of_append {p q : Ports} {new : List Item} (h : q.trace = new ++ p.trace) :
    p.crossedTo q = new.reverse := by simp [Ports.crossedTo, h]

/-- Items that cross one after another are recorded in their order. -/
theorem Ports.crossAll_trace (xs : List Item) (p : Ports) :
    (xs.foldl Ports.cross p).trace = xs.reverse ++ p.trace := by
  induction xs generalizing p with
  | nil => rfl
  | cons x xs ih => simp [ih]

/-- No item moves the reset pin. -/
theorem Ports.crossAll_rst (xs : List Item) (p : Ports) : (xs.foldl Ports.cross p).rst = p.rst := by
  induction xs generalizing p with
  | nil => rfl
  | cons x xs ih => simp [ih]

/-- An abandoned command leaves the record as it was, with the first `k` items that would have crossed. -/
theorem State.abandoned_trace (s : State) (k : Nat) (t : State) :
    (s.abandoned k t).ports.trace = ((s.ports.crossedTo t.ports).take k).reverse ++ s.ports.trace :=
  Ports.crossAll_trace _ _

/-- An abandoned command leaves the pin asserted. -/
theorem State.abandoned_rst (s : State) (k : Nat) (t : State) : (s.abandoned k t).ports.rst = .asserted :=
  Ports.crossAll_rst _ _

end Sys2Proof.Machine
end

