-- ==== Sys2Proof/Machine/Assembler.lean ====
section
/-! DEFINITION. What the host does with commands before the block sees them: the assembler's text forms, symbolic
operands and pseudo-instructions (spec/30_encoding.md R109, R110), and the command lists of the host's seeding procedure
and presets (spec/46_host_collaborators.md R216, R219, R225; spec/70_reset_and_hazards.md R267). The block's behaviour
does not depend on this file. -/

namespace Sys2Proof.Machine

/-! ## Text forms (R109) -/

/-- The operands of a command, in the order the assembler writes them. -/
def operandValues : Instr → List Nat
  | .nop => []
  | .srst => []
  | .setn n => [n.toNat]
  | .rsclr => []
  | .rspush imm => [imm.toNat]
  | .setc1 v => [v.toNat]
  | .setc2 v => [v.toNat]
  | .setipb v => [v.toNat]
  | .setwarm v => [v.toNat]
  | .setmode imm => [imm.toNat]
  | .setxi sel idx => [sel.toNat, idx.toNat]
  | .setdlen v => [v.toNat]
  | .lddig pos val => [pos.toNat, val.toNat]
  | .seed => []
  | .seedraw => []
  | .mix => []
  | .warmup => []
  | .genb => []
  | .fill len => [len.toNat]
  | .xstream => []
  | .xstreamx => []
  | .reval nb rule => [nb.toNat, rule.toNat]
  | .revalc nb rule => [nb.toNat, rule.toNat]
  | .rdreg num => [num.toNat]
  | .rdcell idx => [idx.toNat]

/-- One command per line: the mnemonic, then the operands in decimal, separated by commas. -/
def assemblyText (i : Instr) : String :=
  match operandValues i with
  | [] => i.mnemonic
  | vs => i.mnemonic ++ " " ++ String.intercalate ", " (vs.map toString)

/-- The register names `RDREG` accepts in place of a number (R109), for the numbers below 0x18 (R42). -/
def registerNames : List (String × Nat) :=
  [ ("ID", 0x00), ("STATUS", 0x01), ("ERR", 0x02), ("SIZE", 0x03), ("RLEN", 0x04), ("CUR", 0x05), ("C1", 0x06),
    ("C2", 0x07), ("IPB", 0x08), ("WARM", 0x09), ("MODE", 0x0A), ("DLEN", 0x0B), ("KACC", 0x0C), ("NMAXR", 0x0D),
    ("LMAXR", 0x0E), ("DMAXR", 0x0F), ("XI0", 0x10), ("XI1", 0x11), ("XI2", 0x12), ("XI3", 0x13), ("XI4", 0x14),
    ("XI5", 0x15), ("XI6", 0x16), ("XI7", 0x17) ]

/-- The number of `RS<i>` (R42, R109). -/
def scheduleRegister (i : Nat) : Nat := 0x100 + i

/-- The symbolic operands of `SETMODE` (R109). -/
def modeNames : List (String × Imm) :=
  [("FORMULA", 0#20), ("INDEXED", 1#20), ("FORMULA+ENT", 2#20), ("INDEXED+ENT", 3#20)]

/-! ## Pseudo-instructions (R110) -/

/-- `RULESET r0, r1, …`: `RSCLR`, then one `RSPUSH` per rule. -/
def ruleset (rules : List Byte) : List Instr := .rsclr :: rules.map fun r => .rspush (r.setWidth 20)

/-- `DIGEST b0 b1 …`: `LDDIG j, bj` for every byte, from position 0. -/
def digest (bytes : List Byte) : List Instr := bytes.mapIdx fun j b => .lddig (BitVec.ofNat 8 j) b

/-- `INDICES i0, …, i7`: `SETXI b, ib` for every slot. -/
def indices (idx : List Imm) : List Instr := idx.mapIdx fun b i => .setxi (BitVec.ofNat 4 b) i

/-- `FORMULA c1, c2`. -/
def formula (c1 c2 : Imm) : List Instr := [.setc1 c1, .setc2 c2]

/-! ## The host's procedures, as lists of commands -/

/-- The commands of `HostSeed` (R216) for given digests: the first, then one for each re-mix round. The digest length is
written with the rest of the configuration, before `SEED`. -/
def hostSeed (first : List Byte) (remix : List (List Byte)) : List Instr :=
  [.setdlen (BitVec.ofNat 20 first.length)] ++ digest first ++ [.seed] ++
    (remix.map fun d => digest d ++ [.mix]).flatten ++ [.warmup]

/-- The digests of the re-mix rounds: each is the hash of the digest before it (R216). -/
def remixDigests (hash : List Byte → List Byte) : Nat → List Byte → List (List Byte)
  | 0, _ => []
  | rounds + 1, d => hash d :: remixDigests hash rounds (hash d)

/-- `HostSeed(password, r)` (R216), with the host's hash as an argument. -/
def hostSeedFrom (hash : List Byte → List Byte) (password : List Byte) (rounds : Nat) : List Instr :=
  hostSeed (hash password) (remixDigests hash rounds (hash password))

/-- The distributed extraction index of a slot with a given jitter (R219): `floor(N/8)·slot + jitter`. -/
def hostIndex (n slot jitter : Nat) : Nat := n / 8 * slot + jitter

/-- The preset `basic` (R225). -/
def presetBasic : List Instr :=
  ruleset [150#8, 30#8, 90#8, 22#8] ++ [.setwarm 0#20, .setipb 1#20, .setmode 0#20] ++ formula 13#20 7#20

/-- The preset `simple` (R225). -/
def presetSimple : List Instr :=
  ruleset [150#8, 30#8, 90#8, 22#8] ++ [.setwarm 20#20, .setipb 1#20, .setmode 0#20] ++ formula 13#20 7#20

/-- The preset `advanced` (R225), with the eight indices the host has derived. -/
def presetAdvanced (idx : List Imm) : List Instr :=
  ruleset [150#8, 30#8, 90#8, 22#8, 54#8, 86#8, 158#8, 135#8] ++
    [.setwarm 50#20, .setipb 8#20, .setmode 3#20] ++ indices idx

/-- The three presets of R225. -/
inductive Preset where
  | basic
  | simple
  | advanced
deriving DecidableEq, Repr

/-- The configuration commands of a preset (R225); only `advanced` uses the indices. -/
def presetCommands (p : Preset) (idx : List Imm) : List Instr :=
  match p with
  | .basic => presetBasic
  | .simple => presetSimple
  | .advanced => presetAdvanced idx

/-- The number of re-mix rounds of a preset (R225). -/
def presetRemixRounds : Preset → Nat
  | .basic => 0
  | .simple => 0
  | .advanced => 2

/-- The whole bring-up of a preset (R225, R267): the grid length, the configuration, then `HostSeed` with the preset's
re-mix rounds. -/
def presetBringUp (p : Preset) (n : Imm) (idx : List Imm) (hash : List Byte → List Byte) (password : List Byte) :
    List Instr :=
  [.setn n] ++ presetCommands p idx ++ hostSeedFrom hash password (presetRemixRounds p)

end Sys2Proof.Machine
end

