-- ==== Sys2Proof/Tests/Slice0.lean ====
section
/-! SUPPORT. The model's own tests: words written out from the encodings of spec/30_encoding.md, the smoke test of
WellFormed, one-step tests whose expected results are the examples of the command rules and of spec/95_test_vectors.md,
and for every statement with hypotheses a witness that meets them. -/

namespace Sys2Proof.Tests

open Sys2Proof.Machine

-- The theorems are checked one after another: run side by side, their kernel evaluations ask for too many threads.
set_option Elab.async false

/-! ## Words written out field by field (R91 to R96) -/

theorem test_decode_nop : decode (0x00#8 ++ 0#24) = .ok .nop := by decide
theorem test_decode_srst : decode (0x01#8 ++ 0#24) = .ok .srst := by decide
theorem test_decode_setn : decode 0b00010000000000000000000100000000#32 = .ok (.setn 256#20) := by decide
theorem test_decode_rsclr : decode 0x11000000#32 = .ok .rsclr := by decide
theorem test_decode_rspush : decode 0b00010010000000000000000010010110#32 = .ok (.rspush 150#20) := by decide
theorem test_decode_setc1 : decode 0x1300000D#32 = .ok (.setc1 13#20) := by decide
theorem test_decode_setc2 : decode 0x14000007#32 = .ok (.setc2 7#20) := by decide
theorem test_decode_setipb : decode 0x15000008#32 = .ok (.setipb 8#20) := by decide
theorem test_decode_setwarm : decode 0x16000014#32 = .ok (.setwarm 20#20) := by decide
theorem test_decode_setmode : decode 0x17000003#32 = .ok (.setmode 3#20) := by decide
theorem test_decode_setxi : decode 0b00011000001100000000000011001000#32 = .ok (.setxi 3#4 200#20) := by decide
theorem test_decode_setdlen : decode 0x19000020#32 = .ok (.setdlen 32#20) := by decide
theorem test_decode_lddig : decode 0b00011010000000000001111101001111#32 = .ok (.lddig 31#8 0x4F#8) := by decide
theorem test_decode_seed : decode 0b00100000000000000000000000000000#32 = .ok .seed := by decide
theorem test_decode_seedraw : decode 0x21000000#32 = .ok .seedraw := by decide
theorem test_decode_mix : decode 0x22000000#32 = .ok .mix := by decide
theorem test_decode_warmup : decode 0b00110000000000000000000000000000#32 = .ok .warmup := by decide
theorem test_decode_genb : decode 0x31000000#32 = .ok .genb := by decide
theorem test_decode_fill : decode 0x32000010#32 = .ok (.fill 16#20) := by decide
theorem test_decode_xstream : decode 0b01000000000000000000000000000000#32 = .ok .xstream := by decide
theorem test_decode_xstreamx : decode 0x41000000#32 = .ok .xstreamx := by decide
theorem test_decode_reval : decode 0b01010000000000000000000100011110#32 = .ok (.reval 1#3 30#8) := by decide
theorem test_decode_revalc : decode 0b01010001000000000000011110010110#32 = .ok (.revalc 7#3 150#8) := by decide
theorem test_decode_rdreg : decode 0b01100000000000000000000100000010#32 = .ok (.rdreg 0x102#20) := by decide
theorem test_decode_rdcell : decode 0b01100001000000000000000000111111#32 = .ok (.rdcell 63#20) := by decide

/-! ## Illegal words (R98) and the smoke test of WellFormed -/

theorem test_illegal_all_ones : decode 0xFFFFFFFF#32 = .error .unassignedOpcode := by decide
theorem test_illegal_zero_field_z : decode 0x01000001#32 = .error .mustBeZero := by decide
theorem test_illegal_zero_field_b : decode 0x1A010000#32 = .error .mustBeZero := by decide
theorem test_illegal_zero_field_r : decode 0x50000800#32 = .error .mustBeZero := by decide
theorem test_illegal_sel : decode 0x60100002#32 = .error .selNotZero := by decide
theorem test_illegal_rule : decode 0x12000100#32 = .error .ruleRange := by decide
theorem test_illegal_mode : decode 0x17000004#32 = .error .modeRange := by decide
theorem test_illegal_slot : decode 0x18800000#32 = .error .slotRange := by decide

theorem test_wellFormed_refuses_rule_256 : (Instr.rspush 256#20).wellFormed = false := by decide
theorem test_wellFormed_refuses_mode_4 : (Instr.setmode 4#20).wellFormed = false := by decide
theorem test_wellFormed_refuses_slot_8 : (Instr.setxi 8#4 0#20).wellFormed = false := by decide
theorem test_wellFormed_admits_rule_255 : (Instr.rspush 255#20).wellFormed = true := by decide

theorem test_text : assemblyText (.setxi 3#4 200#20) = "SETXI 3, 200" := by decide +kernel

/-! ## Small states -/

/-- A block of the reference build with these registers and ports. -/
def blockOf (r : Regs) (p : Ports) : State := { build := Build.reference, regs := r, ports := p, job := none }

/-- Ports on which these items are offered. -/
def offering (din : List Symbol) (sink : List Answer) (kin : List Byte) (drw : List Word) : Ports :=
  { quietPorts with din := din, sink := sink, kin := kin, drw := drw }

/-- The next state of a command that answers one. -/
def after (i : Instr) (s : State) : State :=
  match exec i s with
  | .next t => t
  | .fault _ => s
  | .refused _ => s

/-- The next state of a step that answers one. -/
def stepped (s : State) : State :=
  match step s with
  | .next t => t
  | .fault _ => s
  | .refused _ => s

/-- In IDLE with `SIZE` = 64. -/
def idle64 : Regs := { resetRegs with size := 64#20 }

/-- The seeded generator of spec/95_test_vectors.md section 2.6: rule 170, cells 0, 9, 18, 27, 36, 45, 54, 63 set. -/
def seeded64 : Regs :=
  { resetRegs with
    phase := .seeded, degr := true, size := 64#20, rlen := 1#9, c1 := 5#20, c2 := 9#20, ipb := 2#20, warm := 3#20
    rs := [(0, 170#8)], grid := ([1, 2, 4, 8, 16, 32, 64, 128] : List Byte).flatMap bitsOf }

/-- The same generator after its warm-up. -/
def warmed64 : Regs := (after .warmup (blockOf seeded64 quietPorts)).regs

/-- The same generator with entropy injection on. -/
def entropic64 : Regs := { warmed64 with mode := 2#2 }

/-- In FAULT with `ERR` = 3. -/
def faulted64 : Regs := { idle64 with phase := .fault, err := .size }

/-- A generator of 70 cells, all set, and a digest of 32 bytes 0xFF (section 2.4). -/
def seeded70 : Regs :=
  { resetRegs with
    phase := .seeded, size := 70#20, dig := (List.range 32).map fun j => (j, 0xFF#8), grid := List.replicate 70 true }

def seedFrame : List Symbol := frameOf [1, 2, 4, 8, 16, 32, 64, 128]

/-! ## One step of each command (expected results from the examples of the rules and from section 2 of the vectors) -/

theorem test_nop : (after .nop (blockOf warmed64 quietPorts)).ports.responses = [0x00000000#32] := by decide +kernel
theorem test_nop_in_fault : (after .nop (blockOf faulted64 quietPorts)).ports.responses = [0x03000000#32] := by decide
theorem test_srst_in_fault : (after .srst (blockOf faulted64 quietPorts)).ports.responses = [0x00000000#32] := by decide
theorem test_srst_resets : (after .srst (blockOf faulted64 quietPorts)).register 0x03 = some 0 := by decide
theorem test_setn : (after (.setn 256#20) State.reset).register 0x03 = some 256 := by decide
theorem test_rsclr : (after .rsclr State.reset).register 0x04 = some 0 := by decide
theorem test_rspush_appends : (after (.rspush 54#20) State.reset).register 0x104 = some 54 := by decide
theorem test_rspush_counts : (after (.rspush 54#20) State.reset).register 0x04 = some 5 := by decide
theorem test_setc1 : (after (.setc1 1048575#20) State.reset).register 0x06 = some 1048575 := by decide
theorem test_setc2 : (after (.setc2 1048575#20) State.reset).register 0x07 = some 1048575 := by decide
theorem test_setipb : (after (.setipb 8#20) State.reset).register 0x08 = some 8 := by decide
theorem test_setwarm : (after (.setwarm 20#20) State.reset).register 0x09 = some 20 := by decide
theorem test_setmode : (after (.setmode 2#20) State.reset).regs.ent = true := by decide
theorem test_setxi : (after (.setxi 3#4 200#20) State.reset).register 0x13 = some 200 := by decide
theorem test_setdlen : (after (.setdlen 64#20) State.reset).register 0x0B = some 64 := by decide
theorem test_setdlen_zero : (after (.setdlen 0#20) State.reset).ports.responses = [0x07000000#32] := by decide
theorem test_lddig : (after (.lddig 31#8 0x4F#8) State.reset).regs.dig.read 31 = 0x4F#8 := by decide
theorem test_lddig_beyond : (after (.lddig 64#8 1#8) State.reset).ports.responses = [0x08000000#32] := by decide

/-- R152's example: `DIG[j] = j`, so the first cell set is cell 11. -/
theorem test_seed :
    ((after .seed
      (blockOf { idle64 with dig := (List.range 31).map fun j => (j + 1, BitVec.ofNat 8 (j + 1)) } quietPorts)).regs.grid.take
        12) = List.replicate 11 false ++ [true] := by decide +kernel

theorem test_seed_size : (after .seed (blockOf { idle64 with size := 63#20 } quietPorts)).ports.responses =
    [0x03000000#32] := by decide

/-- R154's example: cells 0 and 63 set, `STATUS` = 9. -/
theorem test_seedraw :
    (after .seedraw (blockOf idle64 (offering (frameOf [1, 0, 0, 0, 0, 0, 0, 0x80]) [] [] []))).regs.grid =
      true :: List.replicate 62 false ++ [true] := by decide +kernel

theorem test_seedraw_status :
    (after .seedraw (blockOf idle64 (offering seedFrame [] [] []))).register 0x01 = some 9 := by decide +kernel

/-- Section 2.4: with `N` = 70 the cells 0 to 63 flip and 64 to 69 stay. -/
theorem test_mix : (after .mix (blockOf seeded70 quietPorts)).regs.grid =
    List.replicate 64 false ++ List.replicate 6 true := by decide +kernel

/-- Section 2.6: the seed rotated by 3, `40 80 00 01 02 04 08 30`. -/
theorem test_warmup : warmed64.grid = ([0x40, 0x80, 0, 1, 2, 4, 8, 0x30] : List Byte).flatMap bitsOf := by
  decide +kernel

/-- Section 2.6: after the first `GENB` the grid is `10 20 40 80 00 01 02 0c`. -/
theorem test_genb : (after .genb (blockOf warmed64 quietPorts)).regs.grid =
    ([0x10, 0x20, 0x40, 0x80, 0, 1, 2, 0x0C] : List Byte).flatMap bitsOf := by decide +kernel

/-- Section 2.7, the second byte: flip and trials in order, response 0x3E. -/
theorem test_genb_injection :
    (after .genb
      (blockOf
        { seeded64 with
          phase := .warmed, mode := 2#2, c1 := 0#20, c2 := 1#20, ipb := 1#20, rs := [(0, 204#8)]
          grid := ([0x0F, 0, 0, 0, 0xF0, 0, 0, 0] : List Byte).flatMap bitsOf }
        (offering [] [] [] [1, 1, 5, 0, 4, 32, 36, 64, 100, 7, 7, 8, 9, 10, 11, 12, 13, 14, 15]))).ports.responses =
      [0x0000003E#32] := by decide +kernel

/-- Section 2.8: the first three key bytes are `00 00 e0`. -/
theorem test_fill : (after (.fill 3#20) (blockOf warmed64 (offering [] [.ok, .ok, .ok] [] []))).ports.delivered =
    [0x00#8, 0x00#8, 0xE0#8] := by decide +kernel

theorem test_fill_zero : (after (.fill 0#20) (blockOf warmed64 quietPorts)).regs.phase = .warmed := by decide +kernel

/-- Section 2.8, row 3. -/
theorem test_xstream :
    (after .xstream
      (blockOf warmed64 (offering (frameOf [0x41, 0x42, 0x43, 0x44, 0x45]) (List.replicate 5 .ok) [] []))).ports.delivered =
      [0x41#8, 0x42#8, 0xA3#8, 0x44#8, 0x45#8] := by decide +kernel

theorem test_xstream_ioerr :
    (after .xstream (blockOf warmed64 (offering [.data 0x41, .ioErr] [] [] []))).ports.responses = [0x0A000000#32] := by
  decide +kernel

/-- Section 2.8: `CHUNK` = 2 splits the key request. -/
theorem test_xstreamx_requests :
    (after .xstreamx
      ((blockOf resetRegs
        (offering (frameOf [0x41, 0x42, 0x43]) (List.replicate 3 .ok) [1, 2, 3] [])).withChunk 2)).ports.keyRequests =
      [2#32, 1#32] := by decide +kernel

theorem test_xstreamx :
    (after .xstreamx
      (blockOf resetRegs (offering (frameOf [0x41, 0x42, 0x43]) (List.replicate 3 .ok) [1, 2, 3] []))).ports.delivered =
      [0x40#8, 0x40#8, 0x40#8] := by decide +kernel

theorem test_reval : (after (.reval 1#3 30#8) State.reset).ports.responses = [0x00000001#32] := by decide
theorem test_revalc_135 : (after (.revalc 1#3 135#8) State.reset).ports.responses = [0x00000001#32] := by decide
theorem test_revalc_150 : (after (.revalc 7#3 150#8) State.reset).ports.responses = [0x00000001#32] := by decide
theorem test_rdreg_id : (after (.rdreg 0#20) State.reset).ports.responses = [0x0000CA07#32] := by decide
theorem test_rdreg_unknown : (after (.rdreg 0x18#20) State.reset).ports.responses = [0x08000000#32] := by decide
theorem test_rdcell : (after (.rdcell 63#20) (blockOf seeded64 quietPorts)).ports.responses = [0x00000001#32] := by
  decide +kernel
theorem test_rdcell_beyond : (after (.rdcell 64#20) (blockOf seeded64 quietPorts)).ports.responses =
    [0x08000000#32] := by decide +kernel

/-! ## Steps -/

theorem test_step_all_ones : (stepped (State.reset.withFetchWord 32 0xFFFFFFFF)).ports.responses = [0x01000000#32] := by
  decide

theorem test_step_stray_bit : (stepped (State.reset.withFetchWord 32 0x40000001)).ports.responses = [0x01000000#32] := by
  decide

/-- R265: a command in progress is abandoned without a response. -/
theorem test_step_reset_pin :
    (stepped
      { blockOf warmed64 quietPorts with
        ports := { quietPorts with rst := .asserted }, job := some (.read .int 0 []) }).ports.trace = [] := by decide +kernel

/-- R265: `RST` asserted in the middle of a `WARMUP` leaves its word taken, no response, and the reset registers. -/
theorem test_step_reset_in_warmup :
    (stepped ((blockOf seeded64 { quietPorts with cmd := [0x30000000] }).withRst (.assertedAfter 1))).ports.trace =
        [.cmd 0x30000000#32] ∧
      (stepped ((blockOf seeded64 { quietPorts with cmd := [0x30000000] }).withRst (.assertedAfter 1))).regs =
        resetRegs := by decide +kernel

/-- R265: `RST` asserted after the last item of a stream and before its response, and between two offered symbols. -/
theorem test_step_reset_in_stream :
    let s := blockOf warmed64 { offering (frameOf [0x41, 0x42]) [.ok, .ok] [] [] with cmd := [0x40000000] }
    (stepped (s.withRst (.assertedAfter 6))).ports.trace =
        [.dout 0x42 .ok, .dout 0x41 .ok, .din .endFrame, .din (.data 0x42), .din (.data 0x41), .cmd 0x40000000#32] ∧
      (stepped (s.withRst (.assertedAfter 2))).ports.din = [.data 0x42, .endFrame] := by decide +kernel

/-- A command that waits goes on when an item arrives. -/
theorem test_step_resumes :
    (stepped
      { blockOf warmed64 (offering [.endFrame] [] [] []) with job := some (.read .int 0 []) }).ports.responses =
      [0x00000000#32] := by decide +kernel

theorem test_memory_reset : State.reset.regs.rs.wf ∧ State.reset.regs.dig.wf := by decide

/-- R225: the row `advanced` sends `MIX` twice, its re-mix rounds. -/
theorem test_preset_advanced_remixes :
    ((presetBringUp .advanced 256#20 [] (fun v => v) []).filter fun i => i = .mix).length = 2 := by decide +kernel

/-! ## Witnesses: concrete states and operands that meet the hypotheses of each statement -/

/-- The invariant holds of a warmed block with no command in progress, whatever its ports. -/
theorem warmed_inv (p : Ports) : BlockInv (blockOf warmed64 p) := by
  have h : Build.reference.wf ∧ StatusOk warmed64 ∧ StoresOk Build.reference warmed64 ∧ RangesOk Build.reference warmed64 ∧
      LifeOk Build.reference warmed64 := by decide +kernel
  refine ⟨h.1, h.2.1, h.2.2.1, h.2.2.2.1, h.2.2.2.2, ?_⟩
  intro j hj; cases hj

/-- The invariant holds of a block in FAULT with no command in progress. -/
theorem faulted_inv (p : Ports) : BlockInv (blockOf faulted64 p) := by
  have h : Build.reference.wf ∧ StatusOk faulted64 ∧ StoresOk Build.reference faulted64 ∧ RangesOk Build.reference faulted64 ∧
      LifeOk Build.reference faulted64 := by decide +kernel
  refine ⟨h.1, h.2.1, h.2.2.1, h.2.2.2.1, h.2.2.2.2, ?_⟩
  intro j hj; cases hj

theorem witness_DecodeOfEncode : (Instr.setxi 7#4 1048575#20).wellFormed = true := by decide

theorem witness_EncodeOfDecode : decode 0x187FFFFF#32 = .ok (.setxi 7#4 1048575#20) := by decide

theorem witness_DecodeFollowsOpcodeMap : (⟨"SETXI", 0xFF800000#32, 0x18000000#32⟩ : OpcodeRow) ∈ opcodeRows := by decide

theorem witness_WordMatchesAtMostOneRow : opcodeRows.reverse.Perm opcodeRows := List.reverse_perm _

/-- A block with one word on `CMD`. -/
def given (r : Regs) (w : Word) : State := blockOf r { quietPorts with cmd := [w] }

theorem witness_StepRunsDecodedCommand :
    (given warmed64 0x31000000#32).ports.rst = .released ∧ (given warmed64 0x31000000#32).job = none ∧
      (given warmed64 0x31000000#32).ports.cmd = 0x31000000#32 :: [] ∧ decode 0x31000000#32 = .ok .genb := by
  decide +kernel

theorem witness_IllegalWordFaultsOrIsDropped :
    (given warmed64 0x31000001#32).regs.phase ≠ .fault ∧ (given faulted64 0x31000001#32).regs.phase = .fault ∧
      (given warmed64 0x31000001#32).ports.cmd = 0x31000001#32 :: [] ∧ decode 0x31000001#32 = .error .mustBeZero := by
  decide +kernel

theorem witness_OneCommandAtATime :
    step (given warmed64 0x31000000#32) = .next (stepped (given warmed64 0x31000000#32)) ∧
      (given warmed64 0x31000000#32).ports.cmd ≠ [] := ⟨rfl, by decide⟩

theorem witness_OneCommandAtATime_busy :
    step { given warmed64 0#32 with job := some (.read .int 0 []) } =
      .next (stepped { given warmed64 0#32 with job := some (.read .int 0 []) }) := rfl

theorem witness_CommandRunsToResponseOrWait :
    step (given warmed64 0x40000000#32) = .next (stepped (given warmed64 0x40000000#32)) ∧
      (stepped (given warmed64 0x40000000#32)).job = some (.read .int 0 []) := ⟨rfl, by decide +kernel⟩

theorem witness_OneResponsePerCommand :
    BlockInv (given warmed64 0x31000000#32) ∧
      step (given warmed64 0x31000000#32) = .next (stepped (given warmed64 0x31000000#32)) ∧
      (stepped (given warmed64 0x31000000#32)).job = none := ⟨warmed_inv _, rfl, by decide +kernel⟩

theorem witness_OneResponsePerCommand_waiting :
    BlockInv (given warmed64 0x40000000#32) ∧
      step (given warmed64 0x40000000#32) = .next (stepped (given warmed64 0x40000000#32)) ∧
      (stepped (given warmed64 0x40000000#32)).job ≠ none := ⟨warmed_inv _, rfl, by decide +kernel⟩

theorem witness_StepKeepsBlockInvariant :
    BlockInv (given warmed64 0x31000000#32) ∧
      step (given warmed64 0x31000000#32) = .next (stepped (given warmed64 0x31000000#32)) ∧
      (stepped (given warmed64 0x31000000#32)).regs.phase = .running := ⟨warmed_inv _, rfl, by decide +kernel⟩

theorem witness_PhaseTableDecides :
    Phase.idle ∉ allowedPhases (Instr.genb).mnemonic ∧ Phase.warmed ∈ allowedPhases (Instr.genb).mnemonic ∧
      (blockOf warmed64 quietPorts).regs.phase = .warmed ∧ (blockOf warmed64 quietPorts).regs.err = .none ∧
      (blockOf faulted64 quietPorts).regs.phase = .fault := by decide +kernel

theorem witness_PhaseChangesHaveTheirCause_idle :
    exec .srst (blockOf faulted64 quietPorts) = .next (after .srst (blockOf faulted64 quietPorts)) ∧
      (after .srst (blockOf faulted64 quietPorts)).regs.phase = .idle := ⟨rfl, by decide⟩

theorem witness_PhaseChangesHaveTheirCause_seeded :
    exec .seed (blockOf idle64 quietPorts) = .next (after .seed (blockOf idle64 quietPorts)) ∧
      (after .seed (blockOf idle64 quietPorts)).regs.phase = .seeded := ⟨rfl, by decide +kernel⟩

theorem witness_PhaseChangesHaveTheirCause_warmed :
    exec .warmup (blockOf seeded64 quietPorts) = .next (after .warmup (blockOf seeded64 quietPorts)) ∧
      (after .warmup (blockOf seeded64 quietPorts)).regs.phase = .warmed := ⟨rfl, by decide +kernel⟩

theorem witness_PhaseChangesHaveTheirCause_running :
    exec (.fill 1#20) (blockOf warmed64 quietPorts) = .next (after (.fill 1#20) (blockOf warmed64 quietPorts)) ∧
      (after (.fill 1#20) (blockOf warmed64 quietPorts)).regs.phase = .running := ⟨rfl, by decide +kernel⟩

theorem witness_PhaseChangesHaveTheirCause_fault :
    exec .mix (blockOf warmed64 quietPorts) = .next (after .mix (blockOf warmed64 quietPorts)) ∧
      (after .mix (blockOf warmed64 quietPorts)).regs.phase = .fault := ⟨rfl, by decide +kernel⟩

theorem witness_ResetMeetsBlockInvariant :
    Build.reference.wf ∧ (⟨64, 8, 32, 1⟩ : Build).wf ∧ (⟨1048575, 256, 256, 2 ^ 40⟩ : Build).wf := by decide

theorem witness_ConfigurationIsFrozen :
    (given warmed64 0x31000000#32).regs.phase.active = true ∧
      step (given warmed64 0x31000000#32) = .next (stepped (given warmed64 0x31000000#32)) ∧
      (stepped (given warmed64 0x31000000#32)).regs.phase ≠ .idle := ⟨by decide +kernel, rfl, by decide +kernel⟩

theorem witness_RegisterCommandsWriteTheirRegister : State.reset.regs.phase = .idle := by decide

theorem witness_RspushAppendsOrFaults :
    State.reset.regs.phase = .idle ∧ (255#20).toNat ≤ 255 ∧ State.reset.build.wf ∧ State.reset.regs.rs.wf ∧
      State.reset.regs.rlen.toNat < State.reset.build.lmax ∧
      { resetRegs with rlen := 16#9 }.rlen.toNat = Build.reference.lmax := by decide

theorem witness_SetDlenWritesOrFaults :
    State.reset.regs.phase = .idle ∧ State.reset.build.wf ∧ (1 ≤ (64#20).toNat ∧ (64#20).toNat ≤ State.reset.build.dmax) ∧
      (0#20).toNat = 0 ∧ State.reset.build.dmax < (65#20).toNat := by decide

theorem witness_LddigWritesOrFaults :
    State.reset.regs.phase = .idle ∧ (blockOf seeded64 quietPorts).regs.phase = .seeded ∧ State.reset.regs.dig.wf ∧
      (63#8).toNat < State.reset.build.dmax ∧ State.reset.build.dmax ≤ (64#8).toNat := by decide

theorem witness_ValidateGivesTheFirstFailure :
    ({ idle64 with size := 63#20 }).n < 64 ∧ Build.reference.nmax < ({ idle64 with size := 4097#20 }).n ∧
      64 ≤ idle64.n ∧ ({ idle64 with size := 4096#20 }).n ≤ Build.reference.nmax ∧
      ({ idle64 with rlen := 0#9 }).rlen.toNat = 0 ∧ ({ idle64 with ipb := 0#20 }).ipb.toNat = 0 := by decide

theorem witness_ValidateGivesTheFirstFailure_index :
    ({ idle64 with mode := 1#2 }).mode.getLsbD 0 = true ∧
      (∃ k : Fin 8, idle64.n ≤ (({ idle64 with xi := #v[64, 0, 0, 0, 0, 0, 0, 0] }).xi[k]).toNat) ∧
      ∀ k : Fin 8, (({ idle64 with xi := #v[63, 0, 0, 0, 0, 0, 0, 0] }).xi[k]).toNat < idle64.n := by decide +kernel

theorem witness_SeedingRefusesBadConfiguration :
    State.reset.regs.phase = .idle ∧ validate State.reset.build State.reset.regs ≠ .none := by decide +kernel

theorem witness_SeedTilesTheDigest : idle64.phase = .idle ∧ ConfigOk Build.reference idle64 := by decide +kernel

theorem witness_SeedrawLoadsTheFrame :
    idle64.phase = .idle ∧ ConfigOk Build.reference idle64 ∧
      ([1, 2, 4, 8, 16, 32, 64, 128] : List Byte).length = (idle64.n + 7) / 8 ∧
      (blockOf idle64 (offering seedFrame [] [] [])).ports.din = frameOf [1, 2, 4, 8, 16, 32, 64, 128] ++ [] := by
  decide +kernel

theorem witness_SeedrawFaultsOnBadFrames :
    ConfigOk Build.reference idle64 ∧ ([] : List Byte).length ≠ (idle64.n + 7) / 8 ∧
      (blockOf idle64 (offering [.endFrame] [] [] [])).ports.din = frameOf [] ++ [] ∧
      (blockOf idle64 (offering [.data 1, .ioErr, .endFrame] [] [] [])).ports.din =
        ([1] : List Byte).map Symbol.data ++ .ioErr :: [.endFrame] := by decide +kernel

theorem witness_MixXorsTheDigest : seeded70.phase = .seeded ∧ seeded70.grid.length = seeded70.n := by decide +kernel

theorem witness_EvolveComputesEveryCell :
    1 ≤ seeded64.n ∧ seeded64.grid.length = seeded64.n ∧ 1 ≤ seeded64.rlen.toNat ∧ seeded64.rlen.toNat ≤ 256 := by
  decide +kernel

theorem witness_WarmupEvolvesWarmTimes :
    seeded64.phase = .seeded ∧ seeded64.cur = 0#8 ∧ 1 ≤ seeded64.rlen.toNat ∧ seeded64.rlen.toNat ≤ 256 := by decide

theorem witness_GenbProducesOneByte : warmed64.phase.producing = true ∧ warmed64.ent = false := by decide +kernel

theorem witness_AccountingAfterBytes :
    warmed64.kacc = 0#20 ∧ 1 ≤ warmed64.n ∧ 1 ≤ warmed64.rlen.toNat ∧ warmed64.rlen.toNat ≤ 256 ∧
      warmed64.cur.toNat = warmed64.warm.toNat % warmed64.rlen.toNat ∧ warmed64.xmode = false := by decide +kernel

theorem witness_EnhanceWritesOneCell : seeded64.grid.length = seeded64.n ∧ 63 < seeded64.n := by decide +kernel

theorem witness_NoDrawsWithoutEntropy :
    warmed64.ent = false ∧ exec .genb (blockOf warmed64 quietPorts) = .next (after .genb (blockOf warmed64 quietPorts)) :=
  ⟨by decide +kernel, rfl⟩

theorem witness_FillDeliversTheKeystream :
    warmed64.phase.producing = true ∧ warmed64.ent = false ∧
      (offering [] [.ok, .ok, .ioerr] [] []).sink = List.replicate (2#20).toNat .ok ++ [.ioerr] := by decide +kernel

theorem witness_FillStopsAtARefusedByte :
    warmed64.phase.producing = true ∧ warmed64.ent = false ∧ 1 < (2#20).toNat ∧
      (offering [] [.ok, .ioerr] [] []).sink = List.replicate 1 .ok ++ .ioerr :: [] := by decide +kernel

theorem witness_XstreamXorsTheKeystream :
    warmed64.phase.producing = true ∧ warmed64.ent = false ∧ 1 ≤ Build.reference.chunk ∧
      (offering (frameOf [1, 2]) [.ok, .ok] [] []).din = frameOf [1, 2] ++ [] ∧
      (offering (frameOf [1, 2]) [.ok, .ok] [] []).sink = List.replicate ([1, 2] : List Byte).length .ok ++ [] := by
  decide +kernel

theorem witness_XstreamxXorsTheExternalKey :
    resetRegs.phase ≠ .fault ∧ 1 ≤ Build.reference.chunk ∧ ([9, 8] : List Byte).length = ([1, 2] : List Byte).length ∧
      (offering (frameOf [1, 2]) [.ok, .ok] [9, 8] []).din = frameOf [1, 2] ++ [] ∧
      (offering (frameOf [1, 2]) [.ok, .ok] [9, 8] []).sink = List.replicate ([1, 2] : List Byte).length .ok ++ [] ∧
      (offering (frameOf [1, 2]) [.ok, .ok] [9, 8] []).kin = [9, 8] ++ [] := by decide +kernel

/-- A warmed block with `CHUNK` = 2. -/
def chunked (p : Ports) : State := (blockOf warmed64 p).withChunk 2

/-- The explicit clauses: an `IoErr` in the second chunk, and a refused byte in the second chunk of three bytes. -/
theorem witness_StreamFailsAsR199Says :
    warmed64.phase.producing = true ∧ warmed64.ent = false ∧ 1 ≤ (chunked quietPorts).build.chunk ∧
      (chunked (offering [.data 1, .data 2, .data 3, .ioErr] [.ok, .ok] [] [])).ports.din =
        ([1, 2, 3] : List Byte).map Symbol.data ++ .ioErr :: [] ∧
      ([1, 2, 3] : List Byte).length / 2 * 2 = 2 ∧ [Answer.ok, .ok] = List.replicate 2 .ok ++ [] ∧
      2 < ([1, 2, 3] : List Byte).length ∧
      (chunked (offering (frameOf [1, 2, 3]) [.ok, .ok, .ioerr] [] [])).ports.sink =
        List.replicate 2 .ok ++ .ioerr :: [] := by decide +kernel

/-- The premise of the relative clauses for `XSTREAM`: the stream of the reached bytes completes. -/
theorem witness_StreamFailsAsR199Says_xstream :
    exec .xstream (chunked (offering (frameOf [1, 2]) [.ok, .ok] [] [])) =
        .next (after .xstream (chunked (offering (frameOf [1, 2]) [.ok, .ok] [] []))) ∧
      (after .xstream (chunked (offering (frameOf [1, 2]) [.ok, .ok] [] []))).job = none ∧
      (after .xstream (chunked (offering (frameOf [1, 2]) [.ok, .ok] [] []))).regs.phase ≠ .fault :=
  ⟨rfl, by decide +kernel, by decide +kernel⟩

/-- The premise of the relative clauses for `XSTREAMX`, with entropy injection on. -/
theorem witness_StreamFailsAsR199Says_xstreamx :
    exec .xstreamx ((blockOf entropic64 (offering (frameOf [1, 2]) [.ok, .ok] [5, 6] [])).withChunk 1) =
        .next (after .xstreamx ((blockOf entropic64 (offering (frameOf [1, 2]) [.ok, .ok] [5, 6] [])).withChunk 1)) ∧
      (after .xstreamx ((blockOf entropic64 (offering (frameOf [1, 2]) [.ok, .ok] [5, 6] [])).withChunk 1)).job = none ∧
      (after .xstreamx ((blockOf entropic64 (offering (frameOf [1, 2]) [.ok, .ok] [5, 6] [])).withChunk 1)).regs.phase ≠
        .fault := ⟨rfl, by decide +kernel, by decide +kernel⟩

theorem witness_XstreamxLeavesTheGenerator :
    warmed64.phase ≠ .fault ∧
      exec .xstreamx (blockOf warmed64 (offering [.ioErr] [] [] [])) =
        .next (after .xstreamx (blockOf warmed64 (offering [.ioErr] [] [] []))) := ⟨by decide +kernel, rfl⟩

theorem witness_RdcellReadsOneCell :
    seeded64.phase = .seeded ∧ (63#20).toNat < seeded64.n ∧ seeded64.n ≤ (64#20).toNat := by decide

theorem witness_FaultSavesOnlyTheCode :
    (blockOf warmed64 quietPorts).regs.phase ≠ .fault ∧
      exec .mix (blockOf warmed64 quietPorts) = .next (after .mix (blockOf warmed64 quietPorts)) ∧
      (after .mix (blockOf warmed64 quietPorts)).regs.phase = .fault ∧
      (after .mix (blockOf warmed64 quietPorts)).regs.err = .phase := ⟨by decide +kernel, rfl, by decide +kernel, by decide +kernel⟩

theorem witness_FaultDropsEveryOtherWord :
    (given faulted64 0x01000000#32).regs.phase = .fault ∧ (given faulted64 0x01000000#32).ports.rst = .released ∧
      (given faulted64 0x01000000#32).job = none ∧ decode 0x60000117#32 = .ok (.rdreg 0x117#20) ∧
      decode 0x60000002#32 = .ok (.rdreg 2#20) ∧ (given faulted64 0x60000002#32).register 2 = some 3 ∧
      (given faulted64 0x60000117#32).register 0x117 = none := by decide

theorem witness_BothResetsHaveTheSameEffect :
    (blockOf warmed64 { quietPorts with rst := .asserted }).ports.rst = .asserted := by decide

/-- The mid-command clauses: `RST` after both items of a `GENB`, the word and the response, is within the step; after a
third it is not. -/
theorem witness_BothResetsHaveTheSameEffect_within :
    ((given warmed64 0x31000000#32).withRst (.assertedAfter 2)).ports.rst = .assertedAfter 2 ∧
      step (((given warmed64 0x31000000#32).withRst (.assertedAfter 2)).withRst .released) =
        .next (stepped (given warmed64 0x31000000#32)) ∧
      2 ≤ (stepped (given warmed64 0x31000000#32)).ports.trace.length := ⟨rfl, rfl, by decide +kernel⟩

theorem witness_BothResetsHaveTheSameEffect_later :
    ((given warmed64 0x31000000#32).withRst (.assertedAfter 3)).ports.rst = .assertedAfter 3 ∧
      step (((given warmed64 0x31000000#32).withRst (.assertedAfter 3)).withRst .released) =
        .next (stepped (given warmed64 0x31000000#32)) ∧
      (stepped (given warmed64 0x31000000#32)).ports.trace.length < 3 := ⟨rfl, rfl, by decide +kernel⟩

theorem witness_ResetValuesOfTheTable : Build.reference.wf ∧ 4 < Build.reference.lmax := by decide

/-- For `ResumableCommandsFollowThePseudocode`: a run whose items suffice, and one that must wait. -/
theorem witness_ResumableCommandsFollowThePseudocode :
    1 ≤ Build.reference.chunk ∧ warmed64.phase.producing = true ∧
      (Ref.genb (blockOf warmed64 quietPorts)).isSome = true ∧ Ref.genb (blockOf entropic64 quietPorts) = none ∧
      validate Build.reference idle64 = .none := by decide +kernel

def plainRun : State := blockOf warmed64 (offering [] (List.replicate 4 .ok) [] [])

theorem witness_XstreamTwiceGivesThePlaintext :
    1 ≤ plainRun.build.chunk ∧
      exec .xstream (plainRun.withFrames (frameOf [1, 2] ++ [])) =
        .next (after .xstream (plainRun.withFrames (frameOf [1, 2] ++ []))) ∧
      (after .xstream (plainRun.withFrames (frameOf [1, 2] ++ []))).job = none ∧
      (after .xstream (plainRun.withFrames (frameOf [1, 2] ++ []))).regs.phase ≠ .fault :=
  ⟨by decide, rfl, by decide +kernel, by decide +kernel⟩

theorem witness_FillsCompose :
    (2#20).toNat + (2#20).toNat < 1048576 ∧ exec (.fill 2#20) plainRun = .next (after (.fill 2#20) plainRun) ∧
      (after (.fill 2#20) plainRun).job = none ∧ (after (.fill 2#20) plainRun).regs.phase ≠ .fault :=
  ⟨by decide, rfl, by decide +kernel, by decide +kernel⟩

/-- The run before the first of two streams. -/
def twoStreams : State := plainRun.withFrames (frameOf [1, 2] ++ frameOf [3] ++ [])

theorem witness_StreamsCompose :
    exec .xstream twoStreams = .next (after .xstream twoStreams) ∧ (after .xstream twoStreams).job = none ∧
      (after .xstream twoStreams).regs.phase ≠ .fault ∧
      exec .xstream (after .xstream twoStreams) = .next (after .xstream (after .xstream twoStreams)) ∧
      (after .xstream (after .xstream twoStreams)).job = none ∧
      (after .xstream (after .xstream twoStreams)).regs.phase ≠ .fault :=
  ⟨rfl, by decide +kernel, by decide +kernel, rfl, by decide +kernel, by decide +kernel⟩

theorem witness_ChunkIsUnobservableOnXstream :
    exec .xstream (twoStreams.withChunk 1) = .next (after .xstream (twoStreams.withChunk 1)) ∧
      (after .xstream (twoStreams.withChunk 1)).job = none ∧
      (after .xstream (twoStreams.withChunk 1)).regs.phase ≠ .fault := ⟨rfl, by decide +kernel, by decide +kernel⟩

theorem witness_KeyDoesNotDependOnData : exec .xstream twoStreams = .next (after .xstream twoStreams) := rfl

theorem witness_DigestBufferIsWriteOnly :
    Instr.genb ≠ .seed ∧ Instr.genb ≠ .mix ∧ (∀ p v, Instr.genb ≠ .lddig p v) ∧ Instr.genb ≠ .srst ∧
      exec .genb plainRun = .next (after .genb plainRun) := by
  refine ⟨by decide, by decide, ?_, by decide, rfl⟩
  intro p v h; cases h

theorem witness_LateDeliveryGivesTheSameRun :
    exec .xstream plainRun = .next (after .xstream plainRun) ∧ (after .xstream plainRun).job ≠ none :=
  ⟨rfl, by decide +kernel⟩

theorem witness_IllFormedCommandIsIllegal :
    (Instr.rspush 256#20).wellFormed = false ∧ (Instr.setmode 1048575#20).wellFormed = false ∧
      (blockOf warmed64 quietPorts).regs.phase ≠ .fault := by decide +kernel

theorem witness_PhaseTransitionsAreTheTable :
    BlockInv (given warmed64 0x31000000#32) ∧
      step (given warmed64 0x31000000#32) = .next (stepped (given warmed64 0x31000000#32)) := ⟨warmed_inv _, rfl⟩

theorem witness_ModeAndIndexCommandsWrite :
    State.reset.regs.phase = .idle ∧ (3#20).toNat ≤ 3 ∧ (7#4).toNat ≤ 7 := by decide

theorem witness_ExtractionReadsTheSlotsCells :
    seeded64.mode.getLsbD 0 = false ∧ ({ seeded64 with mode := 1#2 }).mode.getLsbD 0 = true ∧
      ConfigOk Build.reference seeded64 := by decide +kernel

theorem witness_GenbWithEntropyInjection :
    entropic64.phase.producing = true ∧ entropic64.ent = true ∧
      (offering [] [] [] [0xFFFFFFFE#32]).drw = 0xFFFFFFFE#32 :: [] ∧ (0xFFFFFFFE#32).getLsbD 0 = false := by
  decide +kernel

theorem witness_GenbWithEntropyInjection_open :
    (offering [] [] [] (3#32 :: 1#32 :: [5#32] ++ List.replicate 16 7#32 ++ [])).drw =
        3#32 :: 1#32 :: [5#32] ++ List.replicate 16 7#32 ++ [] ∧
      (3#32).getLsbD 0 = true ∧ [5#32].length = (if (1#32).getLsbD 0 then 1 else 0) ∧
      (List.replicate 16 7#32).length = (blockOf entropic64 quietPorts).regs.n / 4 := by decide +kernel

theorem witness_GenbWithEntropyInjection_no_flip :
    ([] : List Word).length = (if (2#32).getLsbD 0 then 1 else 0) := by decide

theorem witness_NopAndRuleCommandsOnlyAnswer : State.reset.regs.phase ≠ .fault := by decide

theorem witness_RdregReadsEveryRegister :
    State.reset.build.wf ∧ 15 < State.reset.build.lmax ∧ (0x18 ≤ (0x18#20).toNat ∧ (0xFF#20).toNat < 0x100) ∧
      0x100 + State.reset.build.lmax ≤ (0x110#20).toNat ∧ State.reset.regs.phase ≠ .fault ∧
      faulted64.phase = .fault := by decide

end Sys2Proof.Tests
end

section
/-! PROOFS. How far a step goes (spec/00_scope.md R15, spec/60_exceptions.md R261). Every command is a part up to its first
wait, which takes nothing from an input port and does the same whatever is queued there, followed by `State.run`. So each
statement is proved once of `State.run` and carried to all the commands by that one fact, `exec_opens`. -/

namespace Sys2Proof.Machine

/-! ## Other ports under the same block -/

/-- The same block on other ports. -/
def State.mapPorts (g : Ports → Ports) (s : State) : State := s.withPorts (g s.ports)

@[simp] theorem State.mapPorts_build (g : Ports → Ports) (s : State) : (s.mapPorts g).build = s.build := rfl
@[simp] theorem State.mapPorts_regs (g : Ports → Ports) (s : State) : (s.mapPorts g).regs = s.regs := rfl
@[simp] theorem State.mapPorts_ports (g : Ports → Ports) (s : State) : (s.mapPorts g).ports = g s.ports := rfl
@[simp] theorem State.mapPorts_job (g : Ports → Ports) (s : State) : (s.mapPorts g).job = s.job := rfl

/-- An exchange of the ports under which the record grows as it would have grown. -/
def KeepsRecording (g : Ports → Ports) : Prop :=
  ∀ (p : Ports) (x : Item), g { p with trace := x :: p.trace } = { g p with trace := x :: (g p).trace }

/-! ## The part of a command between two waits does the same on other ports -/

section
variable {g : Ports → Ports}

/-- Operations that do the same on other ports may be chosen between. -/
theorem ite_mapPorts {c : Prop} [Decidable c] {s' s t' t : State} (hs : s' = s.mapPorts g) (ht : t' = t.mapPorts g) :
    (if c then s' else t') = (if c then s else t).mapPorts g := by
  rw [hs, ht, apply_ite (State.mapPorts g)]

theorem emit_mapPorts (hg : KeepsRecording g) (x : Item) (s : State) :
    (s.mapPorts g).emit x = (s.emit x).mapPorts g := by
  simp [State.emit, State.mapPorts, State.withPorts, hg s.ports x]

theorem rsp_mapPorts (hg : KeepsRecording g) (e : Err) (p : Nat) (s : State) :
    (s.mapPorts g).rsp e p = (s.rsp e p).mapPorts g := by
  simp [State.rsp, State.mapPorts, State.withPorts, hg s.ports]

theorem withRegs_rsp_mapPorts (hg : KeepsRecording g) (r : Regs) (e : Err) (p : Nat) (s : State) :
    ((s.mapPorts g).withRegs r).rsp e p = ((s.withRegs r).rsp e p).mapPorts g :=
  rsp_mapPorts hg e p (s.withRegs r)

theorem raise_mapPorts (hg : KeepsRecording g) (c : Err) (s : State) :
    (s.mapPorts g).raise c = (s.raise c).mapPorts g := withRegs_rsp_mapPorts hg _ c 0 s

theorem dropped_mapPorts (hg : KeepsRecording g) (s : State) :
    (s.mapPorts g).dropped = s.dropped.mapPorts g := rsp_mapPorts hg _ 0 s

theorem softReset_mapPorts (hg : KeepsRecording g) (s : State) :
    (s.mapPorts g).softReset = s.softReset.mapPorts g := rsp_mapPorts hg .none 0 s.cleared

theorem ask_mapPorts (hg : KeepsRecording g) (k : DrawKind) (p : DrawPoint) (u : ByteUse) (s : State) :
    (s.mapPorts g).ask k p u = (s.ask k p u).mapPorts g := congrArg (State.wait _) (emit_mapPorts hg _ s)

theorem seedRawSymbol_mapPorts (hg : KeepsRecording g) (cnt : Nat) (d : Symbol) (s : State) :
    seedRawSymbol cnt d (s.mapPorts g) = (seedRawSymbol cnt d s).mapPorts g := by
  cases d with
  | ioErr => exact raise_mapPorts hg _ _
  | endFrame => exact ite_mapPorts (raise_mapPorts hg _ _) (withRegs_rsp_mapPorts hg _ _ _ _)
  | data v => exact ite_mapPorts rfl rfl

theorem streamOffer_mapPorts (hg : KeepsRecording g) (src : KeySource) (cnt : Nat) (last : Bool) (bytes : List Byte)
    (s : State) : streamOffer src cnt last bytes (s.mapPorts g) = (streamOffer src cnt last bytes s).mapPorts g := by
  cases bytes with
  | cons v rest => rfl
  | nil => exact ite_mapPorts (rsp_mapPorts hg _ _ _) rfl

theorem keyBytes_mapPorts (hg : KeepsRecording g) (cnt : Nat) (last : Bool) (ib : List Byte) (left : Nat)
    (kb : List Byte) (s : State) :
    keyBytes cnt last ib left kb (s.mapPorts g) = (keyBytes cnt last ib left kb s).mapPorts g := by
  induction left generalizing kb s with
  | zero => exact streamOffer_mapPorts hg _ _ _ _ _
  | succ left ih => exact ite_mapPorts (ask_mapPorts hg _ _ _ s.evolved) (ih _ s.evolved.produced)

theorem finishByte_mapPorts (hg : KeepsRecording g) (u : ByteUse) (s : State) :
    finishByte u (s.mapPorts g) = (finishByte u s).mapPorts g := by
  cases u with
  | genb => exact rsp_mapPorts hg _ _ s.produced
  | fill left cnt => rfl
  | key left cnt last ib kb => exact keyBytes_mapPorts hg _ _ _ _ _ s.produced

theorem startByte_mapPorts (hg : KeepsRecording g) (u : ByteUse) (s : State) :
    startByte u (s.mapPorts g) = (startByte u s).mapPorts g :=
  ite_mapPorts (ask_mapPorts hg _ _ _ s.evolved) (finishByte_mapPorts hg _ s.evolved)

theorem nextTrial_mapPorts (hg : KeepsRecording g) (u : ByteUse) (left : Nat) (s : State) :
    nextTrial u left (s.mapPorts g) = (nextTrial u left s).mapPorts g := by
  cases left with
  | zero => exact finishByte_mapPorts hg _ _
  | succ left => exact ask_mapPorts hg _ _ _ _

theorem drawAnswer_mapPorts (hg : KeepsRecording g) (p : DrawPoint) (u : ByteUse) (d : Word) (s : State) :
    drawAnswer p u d (s.mapPorts g) = (drawAnswer p u d s).mapPorts g := by
  cases p with
  | gate2 => exact ite_mapPorts (ask_mapPorts hg _ _ _ _) (finishByte_mapPorts hg _ _)
  | gate1 => exact ite_mapPorts (ask_mapPorts hg _ _ _ _) (nextTrial_mapPorts hg _ _ _)
  | flip => exact nextTrial_mapPorts hg _ _ (s.withRegs _)
  | trial left => exact nextTrial_mapPorts hg _ _ (s.withRegs _)

theorem fillNext_mapPorts (hg : KeepsRecording g) (left cnt : Nat) (s : State) :
    fillNext left cnt (s.mapPorts g) = (fillNext left cnt s).mapPorts g := by
  cases left with
  | zero => exact rsp_mapPorts hg _ _ _
  | succ left => exact startByte_mapPorts hg _ _

theorem fillAnswer_mapPorts (hg : KeepsRecording g) (left cnt : Nat) (a : Answer) (s : State) :
    fillAnswer left cnt a (s.mapPorts g) = (fillAnswer left cnt a s).mapPorts g := by
  cases a with
  | ok => exact fillNext_mapPorts hg _ _ _
  | ioerr => exact raise_mapPorts hg _ _

theorem keyFill_mapPorts (hg : KeepsRecording g) (src : KeySource) (cnt : Nat) (last : Bool) (ib : List Byte)
    (s : State) : keyFill src cnt last ib (s.mapPorts g) = (keyFill src cnt last ib s).mapPorts g := by
  cases src with
  | int => exact keyBytes_mapPorts hg _ _ _ _ _ _
  | ext => exact congrArg (State.wait _) (emit_mapPorts hg _ s)

theorem readSymbol_mapPorts (hg : KeepsRecording g) (src : KeySource) (cnt : Nat) (ib : List Byte) (d : Symbol)
    (s : State) : readSymbol src cnt ib d (s.mapPorts g) = (readSymbol src cnt ib d s).mapPorts g := by
  cases d with
  | ioErr => exact raise_mapPorts hg _ _
  | endFrame => exact ite_mapPorts (rsp_mapPorts hg _ _ _) (keyFill_mapPorts hg _ _ _ _ _)
  | data v => exact ite_mapPorts rfl (keyFill_mapPorts hg _ _ _ _ _)

theorem keyByte_mapPorts (hg : KeepsRecording g) (cnt : Nat) (last : Bool) (ib kb : List Byte) (v : Byte) (s : State) :
    keyByte cnt last ib kb v (s.mapPorts g) = (keyByte cnt last ib kb v s).mapPorts g :=
  ite_mapPorts rfl (streamOffer_mapPorts hg _ _ _ _ _)

theorem progress_mapPorts (hg : KeepsRecording g) (cnt : Nat) (s : State) :
    progress cnt (s.mapPorts g) = (progress cnt s).mapPorts g := ite_mapPorts (emit_mapPorts hg _ _) rfl

theorem writeAnswer_mapPorts (hg : KeepsRecording g) (src : KeySource) (cnt : Nat) (last : Bool) (rest : List Byte)
    (a : Answer) (s : State) :
    writeAnswer src cnt last rest a (s.mapPorts g) = (writeAnswer src cnt last rest a s).mapPorts g := by
  cases a with
  | ok => simp only [writeAnswer, progress_mapPorts hg, streamOffer_mapPorts hg]
  | ioerr => exact raise_mapPorts hg _ _

end

/-! ## A command up to its first wait -/

/-- What can stand before a command's first wait: it takes no item, and does the same on other ports. -/
structure Opening (f : State → State) : Prop where
  same : ∀ s, SameInputs s (f s)
  mapPorts : ∀ {g : Ports → Ports}, KeepsRecording g → ∀ s, f (s.mapPorts g) = (f s).mapPorts g

/-- The meaning of a command is an opening, then a run as far as the offered items allow. -/
def Opens (e : State → Host.Outcome State Fault Refusal) : Prop :=
  ∃ f, Opening f ∧ ∀ s, e s = .next (f s).run

/-- A fault whose code comes from the registers and the build. -/
theorem raise_opening (c : Build → Regs → Err) : Opening fun s => s.raise (c s.build s.regs) :=
  ⟨fun s => raise_same _ s, fun hg s => raise_mapPorts hg _ s⟩

theorem softReset_opening : Opening State.softReset :=
  ⟨fun s => SameInputs.refl s, fun hg s => softReset_mapPorts hg s⟩

theorem dropped_opening : Opening State.dropped := ⟨fun s => rsp_same _ _ s, fun hg s => dropped_mapPorts hg s⟩

/-- A response whose value comes from the registers. -/
theorem rsp_opening (e : Regs → Err) (p : Regs → Nat) : Opening fun s => s.rsp (e s.regs) (p s.regs) :=
  ⟨fun s => rsp_same _ _ s, fun hg s => rsp_mapPorts hg _ _ s⟩

/-- A register write, then the response `{0, 0}`. -/
theorem configured_opening (r : Regs → Regs) : Opening fun s => s.configured (r s.regs) :=
  ⟨fun s => SameInputs.refl s, fun hg s => withRegs_rsp_mapPorts hg _ _ _ s⟩

/-- A register write, then a wait. -/
theorem withRegs_wait_opening (r : Regs → Regs) (j : Job) : Opening fun s => (s.withRegs (r s.regs)).wait j :=
  ⟨fun s => SameInputs.refl s, fun _ _ => rfl⟩

theorem startByte_opening (u : ByteUse) : Opening (startByte u) :=
  ⟨startByte_same u, fun hg s => startByte_mapPorts hg u s⟩

theorem fillNext_opening (left cnt : Nat) : Opening (fillNext left cnt) :=
  ⟨fillNext_same left cnt, fun hg s => fillNext_mapPorts hg left cnt s⟩

/-- A choice made by the registers and the build between two openings. -/
theorem Opening.ite {f h : State → State} (c : Build → Regs → Prop) [∀ b r, Decidable (c b r)] (hf : Opening f)
    (hh : Opening h) : Opening fun s => if c s.build s.regs then f s else h s where
  same s := by
    split
    · exact hf.same s
    · exact hh.same s
  mapPorts hg s := ite_mapPorts (hf.mapPorts hg s) (hh.mapPorts hg s)

/-- An opening after which no command is in progress is a whole command. -/
theorem opens_of_ends {e : State → Host.Outcome State Fault Refusal} {f : State → State} (hf : Opening f)
    (he : ∀ s, e s = .next (f s)) (hj : ∀ s, (f s).job = none) : Opens e :=
  ⟨f, hf, fun s => by rw [he, State.run_idle (hj s)]⟩

/-- The checks of R251 are part of the opening. -/
theorem guarded_opens {i : Instr} {body f : State → State} (hf : Opening f) (hb : ∀ s, body s = (f s).run) :
    Opens (guarded i body) := by
  refine ⟨_, Opening.ite (fun _ r => r.phase = .fault) dropped_opening
    (.ite (fun _ _ => i.wellFormed = false) (raise_opening fun _ _ => .illegal)
      (.ite (fun _ r => legalIn i r.phase = false) (raise_opening fun _ _ => .phase) hf)), fun s => ?_⟩
  have hd : s.dropped.run = s.dropped := State.run_idle rfl
  have hr (c : Err) : (s.raise c).run = s.raise c := State.run_idle rfl
  simp only [guarded, apply_ite State.run, hd, hr, hb]

/-- A guarded command that ends without waiting. -/
theorem guarded_opens_of_ends {i : Instr} {body : State → State} (hf : Opening body)
    (hj : ∀ s, (body s).job = none) : Opens (guarded i body) :=
  guarded_opens hf fun s => (State.run_idle (hj s)).symm

/-- A command that writes registers and answers. -/
theorem configured_opens {i : Instr} (r : Regs → Regs) : Opens (guarded i fun s => s.configured (r s.regs)) :=
  guarded_opens_of_ends (configured_opening r) fun _ => rfl

/-- A command that writes registers and answers, but faults where an operand is out of range. -/
theorem raise_or_configured_opens {i : Instr} (c : Build → Regs → Prop) [∀ b r, Decidable (c b r)] (e : Err)
    (r : Regs → Regs) :
    Opens (guarded i fun s => if c s.build s.regs then s.raise e else s.configured (r s.regs)) :=
  guarded_opens_of_ends (.ite c (raise_opening fun _ _ => e) (configured_opening r)) fun s => by
    split <;> rfl

/-- A command that only answers. -/
theorem rsp_opens {i : Instr} (p : Regs → Nat) : Opens (guarded i fun s => s.rsp .none (p s.regs)) :=
  guarded_opens_of_ends (rsp_opening (fun _ => .none) p) fun _ => rfl

/-- The check of both seeding commands is part of their opening (R243). -/
theorem validated_opens {i : Instr} {body f : State → State} (hf : Opening f) (hb : ∀ s, body s = (f s).run) :
    Opens (guarded i (validated body)) := by
  refine guarded_opens (.ite (fun b r => validate b r = .none) hf (raise_opening validate)) fun s => ?_
  have hr : (s.raise (validate s.build s.regs)).run = s.raise (validate s.build s.regs) := State.run_idle rfl
  simp only [validated, apply_ite State.run, hr, hb]

/-- What `RDREG` does, as one function of the state (R208). -/
def readRegister (num : Imm) (s : State) : State :=
  (s.register num.toNat).elim (if s.regs.phase = .fault then s.dropped else s.raise .range) (s.rsp s.regs.err)

theorem execRdreg_eq (num : Imm) (s : State) : execRdreg num s = .next (readRegister num s) := by
  unfold execRdreg readRegister
  cases s.register num.toNat <;> rfl

theorem readRegister_job (num : Imm) (s : State) : (readRegister num s).job = none := by
  unfold readRegister
  cases s.register num.toNat with
  | none =>
    rw [Option.elim_none]
    split <;> rfl
  | some v => rfl

theorem readRegister_opening (num : Imm) : Opening (readRegister num) := by
  have unknown : Opening fun s => if s.regs.phase = .fault then s.dropped else s.raise .range :=
    .ite (fun _ r => r.phase = .fault) dropped_opening (raise_opening fun _ _ => .range)
  refine ⟨fun s => ?same, fun {g} hg s => ?mapPorts⟩
  case same =>
    unfold readRegister
    cases s.register num.toNat with
    | none => exact unknown.same s
    | some v => exact rsp_same _ _ s
  case mapPorts =>
    have hnum : (s.mapPorts g).register num.toNat = s.register num.toNat := rfl
    unfold readRegister
    rw [hnum]
    cases s.register num.toNat with
    | none => exact unknown.mapPorts hg s
    | some v => exact rsp_mapPorts hg _ _ s

/-- Every command is an opening, then a run. -/
theorem exec_opens (i : Instr) : Opens (exec i) := by
  cases i with
  | nop => exact rsp_opens fun _ => 0
  | srst => exact opens_of_ends softReset_opening (fun _ => rfl) fun _ => rfl
  | setn n => exact configured_opens fun r => { r with size := n }
  | rsclr => exact configured_opens fun r => { r with rlen := 0#9, cur := 0#8 }
  | rspush imm =>
    exact raise_or_configured_opens (fun b r => r.rlen.toNat = b.lmax) .range fun r =>
      { r with rs := r.rs.write r.rlen.toNat (imm.extractLsb' 0 8), rlen := r.rlen + 1#9 }
  | setc1 v => exact configured_opens fun r => { r with c1 := v }
  | setc2 v => exact configured_opens fun r => { r with c2 := v }
  | setipb v => exact configured_opens fun r => { r with ipb := v }
  | setwarm v => exact configured_opens fun r => { r with warm := v }
  | setmode imm => exact configured_opens fun r => { r with mode := imm.extractLsb' 0 2 }
  | setxi sel idx => exact configured_opens fun r => { r with xi := r.xi.setIfInBounds sel.toNat idx }
  | setdlen v =>
    exact raise_or_configured_opens (fun b _ => v.toNat = 0 ∨ v.toNat > b.dmax) .dlen fun r =>
      { r with dlen := v.setWidth 9 }
  | lddig pos val =>
    exact raise_or_configured_opens (fun b _ => pos.toNat ≥ b.dmax) .range fun r =>
      { r with dig := r.dig.write pos.toNat val }
  | seed =>
    exact validated_opens (configured_opening fun r => { seededRegs r with grid := seedGrid r })
      fun _ => (State.run_idle rfl).symm
  | seedraw =>
    exact validated_opens (withRegs_wait_opening (fun r => { r with grid := [] }) (.seedRaw 0)) fun _ => rfl
  | mix => exact configured_opens fun r => { r with grid := mixGrid r }
  | warmup => exact configured_opens fun r => { evolveTimes r.warm.toNat r with phase := .warmed }
  | genb => exact guarded_opens (startByte_opening .genb) fun _ => rfl
  | fill len => exact guarded_opens (fillNext_opening len.toNat 0) fun _ => rfl
  | xstream => exact guarded_opens (withRegs_wait_opening id (.read .int 0 [])) fun _ => rfl
  | xstreamx => exact guarded_opens (withRegs_wait_opening id (.read .ext 0 [])) fun _ => rfl
  | reval nb rule => exact rsp_opens fun _ => _
  | revalc nb rule => exact rsp_opens fun _ => _
  | rdreg num => exact opens_of_ends (readRegister_opening num) (execRdreg_eq num) (readRegister_job num)
  | rdcell idx =>
    exact guarded_opens_of_ends
      (.ite (fun _ r => idx.toNat ≥ r.n) (raise_opening fun _ _ => .range)
        (rsp_opening (fun _ => .none) fun r => (cell r.grid idx.toNat).toNat))
      fun s => by split <;> rfl

/-! ## A step ends at a response or at a wait (R15, R261) -/

/-- An advance fails exactly where the command waits in vain. -/
theorem advance_eq_none_iff {j : Job} {s : State} : advance j s = none ↔ waitsInVain j s.ports := by
  cases j with
  | seedRaw cnt => exact Option.map_eq_none_iff.trans State.takeDin_eq_none
  | draw p u => exact Option.map_eq_none_iff.trans State.takeDraw_eq_none
  | fillOut left cnt v => exact Option.map_eq_none_iff.trans State.takeAnswer_eq_none
  | read src cnt ib => exact Option.map_eq_none_iff.trans State.takeDin_eq_none
  | keyIn cnt last ib kb => exact Option.map_eq_none_iff.trans State.takeKey_eq_none
  | write src cnt last v rest => exact Option.map_eq_none_iff.trans State.takeAnswer_eq_none

/-- Running a command does not move the reset pin. -/
theorem State.run_rst (s : State) : s.run.ports.rst = s.ports.rst :=
  State.run_keeps (fun t => t.ports.rst = s.ports.rst)
    (fun hs _ ha => by
      obtain ⟨-, -, hrst, -⟩ := advance_takes ha
      exact hrst.trans hs) rfl

theorem State.takeCmd_rst {s t : State} {w : Word} (h : s.takeCmd = some (w, t)) : t.ports.rst = s.ports.rst := by
  obtain ⟨rest, -, rfl⟩ := State.takeCmd_eq_some.1 h
  rfl

theorem State.illegalCommand_rst (s : State) : s.illegalCommand.ports.rst = s.ports.rst := by
  unfold State.illegalCommand
  split <;> rfl

theorem State.illegalCommand_job (s : State) : s.illegalCommand.job = none := by
  unfold State.illegalCommand
  split <;> rfl

/-- What a block with `RST` released comes to in a step is the end of a run, and `RST` is still released. -/
theorem step_released_runs {s t : State} (hr : s.ports.rst = .released) (h : step s = .next t) :
    ∃ u : State, u.ports.rst = .released ∧ t = u.run := by
  have hp : proceed s = .next t := by simpa [step, hr] using h
  obtain ⟨j, hj, rfl⟩ | ⟨hj, -, rfl⟩ | ⟨w, u, i, -, hc, -, he⟩ | ⟨w, u, e, -, hc, -, rfl⟩ := proceed_cases hp
  · exact ⟨s, hr, rfl⟩
  · exact ⟨t, hr, (State.run_idle hj).symm⟩
  · obtain ⟨f, hf, hrun⟩ := exec_opens i
    obtain ⟨-, hrst, -⟩ := hf.same u
    exact ⟨f u, hrst.trans ((State.takeCmd_rst hc).trans hr), Host.Outcome.next.inj (he.symm.trans (hrun u))⟩
  · exact ⟨u.illegalCommand, (State.illegalCommand_rst u).trans ((State.takeCmd_rst hc).trans hr),
      (State.run_idle (State.illegalCommand_job u)).symm⟩

/-- A command that waits in vain, `RST` released, is not moved by a step. -/
theorem step_of_waitsInVain {s : State} {j : Job} (hr : s.ports.rst = .released) (hj : s.job = some j)
    (hw : waitsInVain j s.ports) : step s = .next s := by
  simp [step, hr, proceed, hj, State.run_waiting hj (advance_eq_none_iff.2 hw)]

/-- Settles O10: what is left of a command after a step has been run, so its port is empty. -/
theorem commandRunsToResponseOrWait : Obligations.CommandRunsToResponseOrWait := by
  intro s t hr h j hj
  obtain ⟨u, hu, rfl⟩ := step_released_runs hr h
  have hw : waitsInVain j u.run.ports := advance_eq_none_iff.1 (State.run_waits hj)
  exact ⟨hw, step_of_waitsInVain ((State.run_rst u).trans hu) hj hw⟩

/-! ## The cut of the input into deliveries (R15, R280) -/

/-- More items queued on the input ports of the environment. -/
def Ports.offered (din : List Symbol) (sink : List Answer) (kin : List Byte) (drw : List Word) (p : Ports) : Ports :=
  { p with din := p.din ++ din, sink := p.sink ++ sink, kin := p.kin ++ kin, drw := p.drw ++ drw }

section
variable (din : List Symbol) (sink : List Answer) (kin : List Byte) (drw : List Word)

theorem State.feed_eq_mapPorts (s : State) :
    s.feed din sink kin drw = s.mapPorts (Ports.offered din sink kin drw) := rfl

theorem Ports.offered_keepsRecording : KeepsRecording (Ports.offered din sink kin drw) := fun _ _ => rfl

variable {din sink kin drw}

theorem State.takeDin_feed {s t : State} {d : Symbol} (h : s.takeDin = some (d, t)) :
    (s.feed din sink kin drw).takeDin = some (d, t.feed din sink kin drw) := by
  obtain ⟨rest, hd, rfl⟩ := State.takeDin_eq_some.1 h
  exact State.takeDin_eq_some.2 ⟨rest ++ din, by simp [State.feed, hd], rfl⟩

theorem State.takeAnswer_feed {v : Byte} {s t : State} {a : Answer} (h : s.takeAnswer v = some (a, t)) :
    (s.feed din sink kin drw).takeAnswer v = some (a, t.feed din sink kin drw) := by
  obtain ⟨rest, hd, rfl⟩ := State.takeAnswer_eq_some.1 h
  exact State.takeAnswer_eq_some.2 ⟨rest ++ sink, by simp [State.feed, hd], rfl⟩

theorem State.takeKey_feed {s t : State} {v : Byte} (h : s.takeKey = some (v, t)) :
    (s.feed din sink kin drw).takeKey = some (v, t.feed din sink kin drw) := by
  obtain ⟨rest, hd, rfl⟩ := State.takeKey_eq_some.1 h
  exact State.takeKey_eq_some.2 ⟨rest ++ kin, by simp [State.feed, hd], rfl⟩

theorem State.takeDraw_feed {s t : State} {d : Word} (h : s.takeDraw = some (d, t)) :
    (s.feed din sink kin drw).takeDraw = some (d, t.feed din sink kin drw) := by
  obtain ⟨rest, hd, rfl⟩ := State.takeDraw_eq_some.1 h
  exact State.takeDraw_eq_some.2 ⟨rest ++ drw, by simp [State.feed, hd], rfl⟩

/-- An advance that finds its item does the same with more items behind it. -/
theorem advance_feed {j : Job} {s t : State} (h : advance j s = some t) :
    advance j (s.feed din sink kin drw) = some (t.feed din sink kin drw) := by
  have hg := Ports.offered_keepsRecording din sink kin drw
  cases j with
  | seedRaw cnt =>
    obtain ⟨⟨d, u⟩, ht, rfl⟩ := Option.map_eq_some_iff.1 h
    exact Option.map_eq_some_iff.2 ⟨_, State.takeDin_feed ht, seedRawSymbol_mapPorts hg _ _ u⟩
  | draw p use =>
    obtain ⟨⟨d, u⟩, ht, rfl⟩ := Option.map_eq_some_iff.1 h
    exact Option.map_eq_some_iff.2 ⟨_, State.takeDraw_feed ht, drawAnswer_mapPorts hg _ _ _ u⟩
  | fillOut left cnt v =>
    obtain ⟨⟨a, u⟩, ht, rfl⟩ := Option.map_eq_some_iff.1 h
    exact Option.map_eq_some_iff.2 ⟨_, State.takeAnswer_feed ht, fillAnswer_mapPorts hg _ _ _ u⟩
  | read src cnt ib =>
    obtain ⟨⟨d, u⟩, ht, rfl⟩ := Option.map_eq_some_iff.1 h
    exact Option.map_eq_some_iff.2 ⟨_, State.takeDin_feed ht, readSymbol_mapPorts hg _ _ _ _ u⟩
  | keyIn cnt last ib kb =>
    obtain ⟨⟨v, u⟩, ht, rfl⟩ := Option.map_eq_some_iff.1 h
    exact Option.map_eq_some_iff.2 ⟨_, State.takeKey_feed ht, keyByte_mapPorts hg _ _ _ _ _ u⟩
  | write src cnt last v rest =>
    obtain ⟨⟨a, u⟩, ht, rfl⟩ := Option.map_eq_some_iff.1 h
    exact Option.map_eq_some_iff.2 ⟨_, State.takeAnswer_feed ht, writeAnswer_mapPorts hg _ _ _ _ _ u⟩

end

/-- Items that come while a command waits, and items that were there before it ran, lead to the same end. -/
theorem State.run_feed_run (s : State) (din : List Symbol) (sink : List Answer) (kin : List Byte) (drw : List Word) :
    (s.run.feed din sink kin drw).run = (s.feed din sink kin drw).run :=
  State.run_keeps (fun t => (t.feed din sink kin drw).run = (s.feed din sink kin drw).run)
    (fun {t u j} ht hj ha =>
      have hfed : (t.feed din sink kin drw).run = (u.feed din sink kin drw).run :=
        State.run_advance (j := j) hj (advance_feed ha)
      hfed.symm.trans ht) rfl

/-- Settles O60: the part of a command before its first wait does not see the queues, and its run continues. -/
theorem lateDeliveryGivesTheSameRun : Obligations.LateDeliveryGivesTheSameRun := by
  intro i s t din sink kin drw h
  obtain ⟨f, hf, hrun⟩ := exec_opens i
  obtain rfl : t = (f s).run := Host.Outcome.next.inj (h.symm.trans (hrun s))
  have hfeed : f (s.feed din sink kin drw) = (f s).feed din sink kin drw :=
    hf.mapPorts (Ports.offered_keepsRecording din sink kin drw) s
  rw [hrun, hfeed, State.run_feed_run]

end Sys2Proof.Machine
end

section
/-! PROOFS. The invariant of the block (spec/10_state.md R24, R28, R29, R37, R39, R43, R45). Its part about the registers
is `RegsOk`; each register operation keeps that part, each piece of a command between two waits ends in a response or in a
wait whose locals are within bounds, and so every advance, every command and every step keeps the whole. -/

namespace Sys2Proof.Machine

/-! ## The columns of the phase table (R108) -/

theorem Phase.isIdle_iff {p : Phase} : p.isIdle = true ↔ p = .idle := by cases p <;> decide

theorem Phase.isSeeded_iff {p : Phase} : p.isSeeded = true ↔ p = .seeded := by cases p <;> decide

theorem Phase.producing_iff {p : Phase} : p.producing = true ↔ p = .warmed ∨ p = .running := by cases p <;> decide

theorem Phase.active_of_producing {p : Phase} (h : p.producing = true) : p.active = true := by
  obtain rfl | rfl := Phase.producing_iff.1 h <;> rfl

theorem Phase.unfaulted_of_producing {p : Phase} (h : p.producing = true) : p.unfaulted = true := by
  obtain rfl | rfl := Phase.producing_iff.1 h <;> rfl

theorem Phase.ne_idle_of_active {p : Phase} (h : p.active = true) : p ≠ .idle := by rintro rfl; cases h

theorem Phase.not_active_of_isIdle {p : Phase} (h : p.isIdle = true) : ¬ p.active = true := by
  rw [Phase.isIdle_iff.1 h]; decide

theorem Phase.ne_seeded_of_producing {p : Phase} (h : p.producing = true) : p ≠ .seeded := by rintro rfl; cases h

/-! ## The part of the invariant about the registers -/

/-- The clauses of `BlockInv` but the one about the command in progress. -/
structure RegsOk (b : Build) (r : Regs) : Prop where
  build : b.wf
  status : StatusOk r
  rs : r.rs.wf ∧ ∀ c ∈ r.rs, c.1 < b.lmax
  dig : r.dig.wf ∧ ∀ c ∈ r.dig, c.1 < b.dmax
  rlen : r.rlen.toNat ≤ b.lmax
  cur : r.cur.toNat < max r.rlen.toNat 1
  kacc : r.kacc.toNat < max r.n 1
  dlen : 1 ≤ r.dlen.toNat ∧ r.dlen.toNat ≤ b.dmax
  idle : r.phase = .idle → r.cur = 0#8 ∧ r.kacc = 0#20 ∧ r.degr = false
  seeded : r.phase = .seeded → r.cur = 0#8 ∧ r.kacc = 0#20
  active : r.phase.active = true → ConfigOk b r ∧ r.grid.length = r.n

theorem blockInv_iff {s : State} :
    BlockInv s ↔ RegsOk s.build s.regs ∧ ∀ j ∈ s.job, JobOk s.build s.regs j where
  mp := fun ⟨hb, hstatus, ⟨hrs, hdig⟩, ⟨hrlen, hcur, hkacc, hdlen⟩, ⟨hidle, hseeded, hactive⟩, hj⟩ =>
    ⟨⟨hb, hstatus, hrs, hdig, hrlen, hcur, hkacc, hdlen, hidle, hseeded, hactive⟩, hj⟩
  mpr := fun ⟨h, hj⟩ =>
    ⟨h.build, h.status, ⟨h.rs, h.dig⟩, ⟨h.rlen, h.cur, h.kacc, h.dlen⟩, ⟨h.idle, h.seeded, h.active⟩, hj⟩

/-- A write below the capacity keeps a byte store sound. -/
theorem Memory.write_ok {m : Memory} {cap a : Nat} (v : Byte) (h : m.wf ∧ ∀ c ∈ m, c.1 < cap) (ha : a < cap) :
    (m.write a v).wf ∧ ∀ c ∈ m.write a v, c.1 < cap := by
  obtain ⟨hwf, hlt⟩ := h
  refine ⟨Memory.write_wf m a v hwf, fun c hc => ?_⟩
  obtain rfl | hc := Memory.mem_write_addr m a v c hc
  · exact ha
  · exact hlt c hc

/-- The reset values of R49 are sound in every build: they fit the smallest capacities of R10. -/
theorem resetRegs_ok {b : Build} (hb : b.wf) : RegsOk b resetRegs where
  build := hb
  status := by decide
  rs := ⟨by decide, by simp only [resetRegs, List.forall_mem_cons]; refine ⟨?_, ?_, ?_, ?_, nofun⟩ <;> omega⟩
  dig := ⟨by decide, nofun⟩
  rlen := by show 4 ≤ b.lmax; omega
  cur := by decide
  kacc := by decide
  dlen := by show 1 ≤ 32 ∧ 32 ≤ b.dmax; omega
  idle _ := ⟨rfl, rfl, rfl⟩
  seeded := nofun
  active := nofun

section
variable {b : Build} {r : Regs}

/-! ## What each register operation keeps -/

theorem RegsOk.err_eq_none (h : RegsOk b r) (hp : r.phase ≠ .fault) : r.err = .none :=
  not_not.1 fun he => hp (h.status.1 he)

/-- Entering FAULT with a code (R240) leaves nothing to show but that there is one. -/
theorem RegsOk.faulted (h : RegsOk b r) {c : Err} (hc : c ≠ .none) :
    RegsOk b { r with err := c, phase := .fault } :=
  { h with status := ⟨fun _ => rfl, fun _ => hc⟩, idle := nofun, seeded := nofun, active := nofun }

/-- Entering SEEDED with a valid configuration and a complete grid (R152, R154, R181). -/
theorem RegsOk.seeding (h : RegsOk b r) (hp : r.phase ≠ .fault) (hc : ConfigOk b r) (d : Bool) {g : List Bool}
    (hg : g.length = r.n) : RegsOk b { seededRegs r with degr := d, grid := g } :=
  { h with
    status := ⟨fun he => absurd (h.err_eq_none hp) he, nofun⟩
    cur := by simp
    kacc := by simp
    idle := nofun
    seeded := fun _ => ⟨rfl, rfl⟩
    active := fun _ => ⟨hc, hg⟩ }

/-- Other cells in a grid of the same length. -/
theorem RegsOk.withGrid (h : RegsOk b r) {g : List Bool} (hg : g.length = r.grid.length) :
    RegsOk b { r with grid := g } :=
  { h with active := fun ha => ⟨(h.active ha).1, hg.trans (h.active ha).2⟩ }

/-- In IDLE the grid is not yet complete and may be anything. -/
theorem RegsOk.withGrid_of_idle (h : RegsOk b r) (hp : r.phase = .idle) (g : List Bool) :
    RegsOk b { r with grid := g } :=
  { h with active := fun ha => absurd hp (Phase.ne_idle_of_active ha) }

/-- Entering WARMED from SEEDED (R177). -/
theorem RegsOk.warmed (h : RegsOk b r) (hp : r.phase = .seeded) : RegsOk b { r with phase := .warmed } :=
  { h with
    status := ⟨fun he => absurd (h.err_eq_none (by simp [hp])) he, nofun⟩
    idle := nofun
    seeded := nofun
    active := fun _ => h.active (by simp [hp, Phase.active]) }

/-- A generation keeps the cursor inside the schedule and the grid complete (R29, R168). -/
theorem RegsOk.evolve (h : RegsOk b r) (hp : r.phase.producing = true) : RegsOk b (evolve r) := by
  obtain ⟨⟨-, hrlen, -⟩, hgrid⟩ := h.active (Phase.active_of_producing hp)
  have hcur : (r.cur.toNat + 1) % r.rlen.toNat < r.rlen.toNat := Nat.mod_lt _ hrlen
  exact { h with
    cur := by
      have := Nat.mod_le ((r.cur.toNat + 1) % r.rlen.toNat) (2 ^ 8)
      simp only [evolve_cur, evolve_rlen, BitVec.toNat_ofNat]
      omega
    idle := fun hi => absurd hi (Phase.ne_idle_of_active (Phase.active_of_producing hp))
    seeded := fun hs => absurd hs (Phase.ne_seeded_of_producing hp)
    active := fun ha => ⟨(h.active ha).1, by simpa using hgrid⟩ }

theorem RegsOk.evolveTimes (k : Nat) (h : RegsOk b r) (hp : r.phase.producing = true) :
    RegsOk b (evolveTimes k r) := by
  induction k generalizing r with
  | zero => exact h
  | succ k ih => exact ih (h.evolve hp) hp

/-- The accumulator is advanced modulo `N` (R39, R176). -/
theorem RegsOk.afterByte (h : RegsOk b r) (hp : r.phase.producing = true) : RegsOk b (afterByte r) := by
  have hactive := h.active (Phase.active_of_producing hp)
  obtain ⟨⟨hn, -⟩, -⟩ := hactive.1
  have hkacc : (r.kacc.toNat + r.c1.toNat) % r.n < r.n := Nat.mod_lt _ (by omega)
  exact { h with
    status := ⟨fun he => absurd (h.err_eq_none (by rintro hf; simp [hf, Phase.producing] at hp)) he, nofun⟩
    kacc := by
      have := Nat.mod_le ((r.kacc.toNat + r.c1.toNat) % r.n) (2 ^ 20)
      simp only [afterByte_kacc, afterByte_n, BitVec.toNat_ofNat]
      omega
    idle := nofun
    seeded := nofun
    active := fun _ => hactive }

/-- What commutes with one generation commutes with many. -/
theorem evolveTimes_comm {f : Regs → Regs} (h : ∀ r, f (evolve r) = evolve (f r)) (k : Nat) (r : Regs) :
    f (evolveTimes k r) = evolveTimes k (f r) :=
  Function.Semiconj.iterate_right (ga := evolve) (gb := evolve) h k r

/-- The phase can be written before the generations as well as after them. -/
theorem evolveTimes_withPhase (k : Nat) (p : Phase) (r : Regs) :
    { evolveTimes k r with phase := p } = evolveTimes k { r with phase := p } :=
  evolveTimes_comm (f := fun q => { q with phase := p }) (fun _ => rfl) k r

end

/-! ## The pieces of a command between two waits -/

section
variable {s : State}

theorem rsp_inv (h : RegsOk s.build s.regs) (e : Err) (p : Nat) : BlockInv (s.rsp e p) := blockInv_iff.2 ⟨h, nofun⟩

theorem withRegs_rsp_inv {r : Regs} (h : RegsOk s.build r) (e : Err) (p : Nat) : BlockInv ((s.withRegs r).rsp e p) :=
  rsp_inv (s := s.withRegs r) h e p

theorem raise_inv (h : RegsOk s.build s.regs) {c : Err} (hc : c ≠ .none) : BlockInv (s.raise c) :=
  withRegs_rsp_inv (h.faulted hc) c 0

theorem wait_inv (h : RegsOk s.build s.regs) {j : Job} (hj : JobOk s.build s.regs j) : BlockInv (s.wait j) :=
  blockInv_iff.2 ⟨h, fun _ hi => Option.some.inj hi ▸ hj⟩

/-- What the generator works under: sound registers, and a phase that allows production. -/
structure Generates (s : State) : Prop where
  regs : RegsOk s.build s.regs
  phase : s.regs.phase.producing = true

theorem Generates.evolved (h : Generates s) : Generates s.evolved :=
  ⟨h.regs.evolveTimes _ h.phase, by simpa using h.phase⟩

theorem Generates.produced (h : Generates s) : Generates s.produced := ⟨h.regs.afterByte h.phase, rfl⟩

theorem Generates.withGrid (h : Generates s) {g : List Bool} (hg : g.length = s.regs.grid.length) :
    Generates (s.withRegs { s.regs with grid := g }) := ⟨h.regs.withGrid hg, h.phase⟩

theorem ask_inv (h : Generates s) (he : s.regs.ent = true) (k : DrawKind) (p : DrawPoint) {u : ByteUse}
    (hu : UseOk s.build u) : BlockInv (s.ask k p u) :=
  wait_inv (s := s.emit (.drq k)) h.regs ⟨h.phase, he, hu⟩

theorem seedRawSymbol_inv {cnt : Nat} (h : RegsOk s.build s.regs) (hj : JobOk s.build s.regs (.seedRaw cnt))
    (d : Symbol) : BlockInv (seedRawSymbol cnt d s) := by
  obtain ⟨hp, hc, hg⟩ := hj
  have hbytes : s.regs.seedBytes = (s.regs.n + 7) / 8 := rfl
  cases d with
  | ioErr => exact raise_inv h nofun
  | endFrame =>
    unfold seedRawSymbol; simp only []; split
    · exact raise_inv h nofun
    · exact withRegs_rsp_inv (h.seeding (by simp [hp]) hc true (g := s.regs.grid) (by omega)) _ _
  | data v =>
    unfold seedRawSymbol; simp only []; split
    · have hload : (loadCells v s.regs).grid.length = min s.regs.n (8 * min (cnt + 1) s.regs.seedBytes) := by
        simp only [loadCells_grid, List.length_take, List.length_append, bitsOf_length]; omega
      exact wait_inv (s := s.withRegs (loadCells v s.regs)) (h.withGrid_of_idle hp _) ⟨hp, hc, hload⟩
    · exact wait_inv h ⟨hp, hc, by omega⟩

theorem streamOffer_inv {src : KeySource} {bytes : List Byte} (h : RegsOk s.build s.regs)
    (hu : s.regs.phase.unfaulted = true) (hp : src = .int → s.regs.phase.producing = true)
    (hl : bytes.length ≤ s.build.chunk) (cnt : Nat) (last : Bool) : BlockInv (streamOffer src cnt last bytes s) := by
  cases bytes with
  | cons v rest => exact wait_inv h ⟨hu, hp, hl⟩
  | nil =>
    unfold streamOffer; simp only []; split
    · exact rsp_inv h _ _
    · exact wait_inv h ⟨hu, hp, h.build.2.2.2⟩

theorem keyBytes_inv {ib kb : List Byte} {left : Nat} (h : Generates s) (hk : kb.length + left = ib.length)
    (hc : ib.length ≤ s.build.chunk) (cnt : Nat) (last : Bool) : BlockInv (keyBytes cnt last ib left kb s) := by
  induction left generalizing kb s with
  | zero =>
    exact streamOffer_inv h.regs (Phase.unfaulted_of_producing h.phase) (fun _ => h.phase)
      (by simp only [xorBytes, List.length_zipWith]; omega) cnt last
  | succ left ih =>
    unfold keyBytes; split
    · next he => exact ask_inv h.evolved (by simpa using he) _ _ ⟨by omega, hc⟩
    · exact ih h.evolved.produced (by simp; omega) hc

theorem finishByte_inv {u : ByteUse} (h : Generates s) (hu : UseOk s.build u) : BlockInv (finishByte u s) := by
  cases u with
  | genb => exact rsp_inv h.produced.regs _ _
  | fill left cnt => exact wait_inv h.produced.regs ⟨rfl, hu⟩
  | key left cnt last ib kb =>
    obtain ⟨hk, hc⟩ := hu
    exact keyBytes_inv h.produced (by simp; omega) hc _ _

theorem startByte_inv {u : ByteUse} (h : Generates s) (hu : UseOk s.build u) : BlockInv (startByte u s) := by
  unfold startByte; split
  · next he => exact ask_inv h.evolved (by simpa using he) _ _ hu
  · exact finishByte_inv h.evolved hu

theorem nextTrial_inv {u : ByteUse} (h : Generates s) (he : s.regs.ent = true) (hu : UseOk s.build u) (left : Nat) :
    BlockInv (nextTrial u left s) := by
  cases left with
  | zero => exact finishByte_inv h hu
  | succ left => exact ask_inv h he _ _ hu

theorem drawAnswer_inv {u : ByteUse} (h : Generates s) (he : s.regs.ent = true) (hu : UseOk s.build u) (p : DrawPoint)
    (d : Word) : BlockInv (drawAnswer p u d s) := by
  cases p with
  | gate2 =>
    unfold drawAnswer; simp only []; split
    · exact ask_inv h he _ _ hu
    · exact finishByte_inv h hu
  | gate1 =>
    unfold drawAnswer; simp only []; split
    · exact ask_inv h he _ _ hu
    · exact nextTrial_inv h he hu _
  | flip => exact nextTrial_inv (s := s.withRegs (flipCell d s.regs)) (h.withGrid List.length_set) he hu _
  | trial left => exact nextTrial_inv (s := s.withRegs (trialCell d s.regs)) (h.withGrid List.length_set) he hu left

theorem fillNext_inv {left cnt : Nat} (h : Generates s) (hl : left + cnt ≤ 1048575) :
    BlockInv (fillNext left cnt s) := by
  cases left with
  | zero => exact rsp_inv h.regs _ _
  | succ left => exact startByte_inv h (show left + cnt < 1048575 by omega)

theorem fillAnswer_inv {left cnt : Nat} (h : Generates s) (hl : left + cnt < 1048575) (a : Answer) :
    BlockInv (fillAnswer left cnt a s) := by
  cases a with
  | ok => exact fillNext_inv h (by omega)
  | ioerr => exact raise_inv h.regs nofun

/-- The chunk that has been read is not empty and not longer than `CHUNK`. -/
theorem keyFill_inv {src : KeySource} {ib : List Byte} (h : RegsOk s.build s.regs)
    (hu : s.regs.phase.unfaulted = true) (hp : src = .int → s.regs.phase.producing = true) (h0 : 0 < ib.length)
    (hc : ib.length ≤ s.build.chunk) (cnt : Nat) (last : Bool) : BlockInv (keyFill src cnt last ib s) := by
  cases src with
  | int => exact keyBytes_inv ⟨h, hp rfl⟩ (Nat.zero_add _) hc cnt last
  | ext => exact wait_inv (s := s.emit _) h ⟨hu, h0, hc⟩

theorem readSymbol_inv {src : KeySource} {cnt : Nat} {ib : List Byte} (h : RegsOk s.build s.regs)
    (hj : JobOk s.build s.regs (.read src cnt ib)) (d : Symbol) : BlockInv (readSymbol src cnt ib d s) := by
  obtain ⟨hu, hp, hl⟩ := hj
  cases d with
  | ioErr => exact raise_inv h nofun
  | endFrame =>
    unfold readSymbol; simp only []; split
    · exact rsp_inv h _ _
    · next hne => exact keyFill_inv h hu hp (List.length_pos_iff.2 hne) hl.le cnt true
  | data v =>
    unfold readSymbol; simp only []; split
    · exact wait_inv h ⟨hu, hp, by simpa using ‹_›⟩
    · exact keyFill_inv h hu hp (by simp) (by simpa using hl) cnt false

theorem keyByte_inv {cnt : Nat} {last : Bool} {ib kb : List Byte} (h : RegsOk s.build s.regs)
    (hj : JobOk s.build s.regs (.keyIn cnt last ib kb)) (v : Byte) : BlockInv (keyByte cnt last ib kb v s) := by
  obtain ⟨hu, hk, hc⟩ := hj
  unfold keyByte; split
  · exact wait_inv h ⟨hu, by simpa using ‹_›, hc⟩
  · exact streamOffer_inv (src := .ext) h hu nofun (by simp only [xorBytes, List.length_zipWith]; omega) cnt last

theorem progress_regs (cnt : Nat) (s : State) : (progress cnt s).regs = s.regs := by unfold progress; split <;> rfl

theorem progress_build (cnt : Nat) (s : State) : (progress cnt s).build = s.build := (progress_same cnt s).1

theorem writeAnswer_inv {src : KeySource} {cnt : Nat} {last : Bool} {v : Byte} {rest : List Byte}
    (h : RegsOk s.build s.regs) (hj : JobOk s.build s.regs (.write src cnt last v rest)) (a : Answer) :
    BlockInv (writeAnswer src cnt last rest a s) := by
  obtain ⟨hu, hp, hl⟩ := hj
  cases a with
  | ioerr => exact raise_inv h nofun
  | ok =>
    have hregs := progress_regs (cnt + 1) s
    have hbuild := progress_build (cnt + 1) s
    exact streamOffer_inv (by rwa [hregs, hbuild]) (by rwa [hregs]) (by rwa [hregs]) (by rw [hbuild]; omega) _ last

end

/-! ## Advances, commands, steps -/

/-- What an advance does from the state `u` in which its item has been taken. -/
inductive AdvancesTo (u : State) : Job → State → Prop
  | seedRaw (cnt : Nat) (d : Symbol) : AdvancesTo u (.seedRaw cnt) (seedRawSymbol cnt d u)
  | draw (p : DrawPoint) (use : ByteUse) (d : Word) : AdvancesTo u (.draw p use) (drawAnswer p use d u)
  | fillOut (left cnt : Nat) (v : Byte) (a : Answer) : AdvancesTo u (.fillOut left cnt v) (fillAnswer left cnt a u)
  | read (src : KeySource) (cnt : Nat) (ib : List Byte) (d : Symbol) :
      AdvancesTo u (.read src cnt ib) (readSymbol src cnt ib d u)
  | keyIn (cnt : Nat) (last : Bool) (ib kb : List Byte) (v : Byte) :
      AdvancesTo u (.keyIn cnt last ib kb) (keyByte cnt last ib kb v u)
  | write (src : KeySource) (cnt : Nat) (last : Bool) (v : Byte) (rest : List Byte) (a : Answer) :
      AdvancesTo u (.write src cnt last v rest) (writeAnswer src cnt last rest a u)

/-- Taking the item changes neither the build nor the registers. -/
theorem advance_advancesTo {j : Job} {s t : State} (h : advance j s = some t) :
    ∃ u, AdvancesTo u j t ∧ u.build = s.build ∧ u.regs = s.regs := by
  cases j with
  | seedRaw cnt =>
    obtain ⟨⟨d, u⟩, ht, rfl⟩ := Option.map_eq_some_iff.1 h
    obtain ⟨rest, -, rfl⟩ := State.takeDin_eq_some.1 ht
    exact ⟨_, .seedRaw cnt d, rfl, rfl⟩
  | draw p use =>
    obtain ⟨⟨d, u⟩, ht, rfl⟩ := Option.map_eq_some_iff.1 h
    obtain ⟨rest, -, rfl⟩ := State.takeDraw_eq_some.1 ht
    exact ⟨_, .draw p use d, rfl, rfl⟩
  | fillOut left cnt v =>
    obtain ⟨⟨a, u⟩, ht, rfl⟩ := Option.map_eq_some_iff.1 h
    obtain ⟨rest, -, rfl⟩ := State.takeAnswer_eq_some.1 ht
    exact ⟨_, .fillOut left cnt v a, rfl, rfl⟩
  | read src cnt ib =>
    obtain ⟨⟨d, u⟩, ht, rfl⟩ := Option.map_eq_some_iff.1 h
    obtain ⟨rest, -, rfl⟩ := State.takeDin_eq_some.1 ht
    exact ⟨_, .read src cnt ib d, rfl, rfl⟩
  | keyIn cnt last ib kb =>
    obtain ⟨⟨v, u⟩, ht, rfl⟩ := Option.map_eq_some_iff.1 h
    obtain ⟨rest, -, rfl⟩ := State.takeKey_eq_some.1 ht
    exact ⟨_, .keyIn cnt last ib kb v, rfl, rfl⟩
  | write src cnt last v rest =>
    obtain ⟨⟨a, u⟩, ht, rfl⟩ := Option.map_eq_some_iff.1 h
    obtain ⟨rest', -, rfl⟩ := State.takeAnswer_eq_some.1 ht
    exact ⟨_, .write src cnt last v rest a, rfl, rfl⟩

/-- Every advance of a command in progress keeps the invariant. -/
theorem advance_inv {j : Job} {s t : State} (h : BlockInv s) (hj : s.job = some j) (ha : advance j s = some t) :
    BlockInv t := by
  obtain ⟨hregs, hjobs⟩ := blockInv_iff.1 h
  have hjob : JobOk s.build s.regs j := hjobs j hj
  obtain ⟨u, hu, hb, hr⟩ := advance_advancesTo ha
  rw [← hb, ← hr] at hregs hjob
  cases hu with
  | seedRaw cnt d => exact seedRawSymbol_inv hregs hjob d
  | draw p use d =>
    obtain ⟨hp, he, huse⟩ := hjob
    exact drawAnswer_inv ⟨hregs, hp⟩ he huse p d
  | fillOut left cnt v a =>
    obtain ⟨hp, hl⟩ := hjob
    exact fillAnswer_inv ⟨hregs, hp⟩ hl a
  | read src cnt ib d => exact readSymbol_inv hregs hjob d
  | keyIn cnt last ib kb v => exact keyByte_inv hregs hjob v
  | write src cnt last v rest a => exact writeAnswer_inv hregs hjob a

theorem run_inv {s : State} (h : BlockInv s) : BlockInv s.run := State.run_keeps BlockInv advance_inv h

/-- A command keeps the invariant, from sound registers and whatever job it replaces. -/
def KeepsInv (e : State → Host.Outcome State Fault Refusal) : Prop :=
  ∀ s t : State, RegsOk s.build s.regs → e s = .next t → BlockInv t

theorem dropped_inv {s : State} (h : RegsOk s.build s.regs) : BlockInv s.dropped := rsp_inv h _ 0

/-- A guarded command keeps the invariant if its body does, in the phases that allow the command. -/
theorem guarded_keepsInv {i : Instr} {body : State → State}
    (hb : ∀ s, RegsOk s.build s.regs → legalIn i s.regs.phase = true → BlockInv (body s)) :
    KeepsInv (guarded i body) := by
  intro s t h ht
  obtain ⟨-, rfl⟩ | ⟨-, -, rfl⟩ | ⟨-, -, -, rfl⟩ | ⟨-, -, hl, rfl⟩ := guarded_cases ht
  · exact dropped_inv h
  · exact raise_inv h nofun
  · exact raise_inv h nofun
  · exact hb s h hl

/-- A command that writes registers and answers keeps the invariant if the registers it writes are sound. -/
theorem configured_keepsInv {i : Instr} (f : Regs → Regs)
    (hf : ∀ {b r}, RegsOk b r → legalIn i r.phase = true → RegsOk b (f r)) :
    KeepsInv (guarded i fun s => s.configured (f s.regs)) :=
  guarded_keepsInv fun _ h hl => withRegs_rsp_inv (hf h hl) _ _

/-- The same of a command that faults where an operand is out of range. -/
theorem raise_or_configured_keepsInv {i : Instr} (c : Build → Regs → Prop) [∀ b r, Decidable (c b r)] (e : Err)
    (he : e ≠ .none) (f : Regs → Regs)
    (hf : ∀ {b r}, RegsOk b r → legalIn i r.phase = true → ¬ c b r → RegsOk b (f r)) :
    KeepsInv (guarded i fun s => if c s.build s.regs then s.raise e else s.configured (f s.regs)) :=
  guarded_keepsInv fun s h hl => by
    split
    · exact raise_inv h he
    · next hc => exact withRegs_rsp_inv (hf h hl hc) _ _

/-- The check of both seeding commands, and then a body that may rely on a valid configuration (R150, R243). -/
theorem validated_keepsInv {i : Instr} {body : State → State}
    (hb : ∀ s, RegsOk s.build s.regs → legalIn i s.regs.phase = true → ConfigOk s.build s.regs → BlockInv (body s)) :
    KeepsInv (guarded i (validated body)) :=
  guarded_keepsInv fun s h hl => by
    unfold validated
    split
    · next hv => exact hb s h hl ((validate_eq_none_iff _ _).1 hv)
    · next hv => exact raise_inv h hv

theorem readRegister_inv {s : State} (h : RegsOk s.build s.regs) (num : Imm) : BlockInv (readRegister num s) := by
  unfold readRegister
  cases s.register num.toNat with
  | some v => exact rsp_inv h _ _
  | none =>
    rw [Option.elim_none]
    split
    · exact dropped_inv h
    · exact raise_inv h nofun

theorem exec_inv (i : Instr) : KeepsInv (exec i) := by
  cases i with
  | nop => exact guarded_keepsInv fun _ h _ => rsp_inv h _ _
  | srst => exact fun s t h ht => Host.Outcome.next.inj ht ▸ rsp_inv (s := s.cleared) (resetRegs_ok h.build) .none 0
  | setn n =>
    exact configured_keepsInv (fun r => { r with size := n }) fun h hl =>
      { h with
        kacc := by simp [(h.idle (Phase.isIdle_iff.1 hl)).2.1]
        active := fun ha => absurd ha (Phase.not_active_of_isIdle hl) }
  | rsclr =>
    exact configured_keepsInv (fun r => { r with rlen := 0#9, cur := 0#8 }) fun h hl =>
      { h with
        rlen := Nat.zero_le _
        cur := by simp
        idle := fun hp => ⟨rfl, (h.idle hp).2⟩
        seeded := fun hp => ⟨rfl, (h.seeded hp).2⟩
        active := fun ha => absurd ha (Phase.not_active_of_isIdle hl) }
  | rspush imm =>
    refine raise_or_configured_keepsInv (fun b r => r.rlen.toNat = b.lmax) .range nofun (fun r =>
      { r with rs := r.rs.write r.rlen.toNat (imm.extractLsb' 0 8), rlen := r.rlen + 1#9 }) fun {b r} h hl hfull => ?_
    have hroom : r.rlen.toNat < b.lmax := Nat.lt_of_le_of_ne h.rlen hfull
    have hlmax : b.lmax ≤ 256 := h.build.2.1.2
    have hrlen : (r.rlen + 1#9).toNat = r.rlen.toNat + 1 := by bv_omega
    exact { h with
      rs := Memory.write_ok _ h.rs hroom
      rlen := by simp only [hrlen]; omega
      cur := by have := h.cur; simp only [hrlen]; omega
      active := fun ha => absurd ha (Phase.not_active_of_isIdle hl) }
  | setc1 v => exact configured_keepsInv (fun r => { r with c1 := v }) fun h _ => { h with }
  | setc2 v => exact configured_keepsInv (fun r => { r with c2 := v }) fun h _ => { h with }
  | setipb v =>
    exact configured_keepsInv (fun r => { r with ipb := v }) fun h hl =>
      { h with active := fun ha => absurd ha (Phase.not_active_of_isIdle hl) }
  | setwarm v => exact configured_keepsInv (fun r => { r with warm := v }) fun h _ => { h with }
  | setmode imm =>
    exact configured_keepsInv (fun r => { r with mode := imm.extractLsb' 0 2 }) fun h hl =>
      { h with active := fun ha => absurd ha (Phase.not_active_of_isIdle hl) }
  | setxi sel idx =>
    exact configured_keepsInv (fun r => { r with xi := r.xi.setIfInBounds sel.toNat idx }) fun h hl =>
      { h with active := fun ha => absurd ha (Phase.not_active_of_isIdle hl) }
  | setdlen v =>
    refine raise_or_configured_keepsInv (fun b _ => v.toNat = 0 ∨ v.toNat > b.dmax) .dlen nofun
      (fun r => { r with dlen := v.setWidth 9 }) fun {b r} h _ hrange => ?_
    have hdmax : b.dmax ≤ 256 := h.build.2.2.1.2
    have hdlen : (v.setWidth 9).toNat = v.toNat := by
      rw [BitVec.toNat_setWidth]; exact Nat.mod_eq_of_lt (by omega)
    exact { h with dlen := by simp only [hdlen]; omega }
  | lddig pos val =>
    exact raise_or_configured_keepsInv (fun b _ => pos.toNat ≥ b.dmax) .range nofun
      (fun r => { r with dig := r.dig.write pos.toNat val }) fun h _ hpos =>
        { h with dig := Memory.write_ok val h.dig (by omega) }
  | seed =>
    exact validated_keepsInv fun s h hl hc =>
      withRegs_rsp_inv (h.seeding (by simp [Phase.isIdle_iff.1 hl]) hc s.regs.degr (seedGrid_length _)) _ _
  | seedraw =>
    exact validated_keepsInv fun s h hl hc =>
      run_inv (wait_inv (s := s.withRegs { s.regs with grid := [] }) (h.withGrid_of_idle (Phase.isIdle_iff.1 hl) [])
        ⟨Phase.isIdle_iff.1 hl, hc, by simp⟩)
  | mix =>
    exact configured_keepsInv (fun r => { r with grid := mixGrid r }) fun h _ => h.withGrid (mixGrid_length _)
  | warmup =>
    exact configured_keepsInv (fun r => { evolveTimes r.warm.toNat r with phase := .warmed }) fun {b r} h hl => by
      rw [evolveTimes_withPhase]
      exact (h.warmed (Phase.isSeeded_iff.1 hl)).evolveTimes _ rfl
  | genb => exact guarded_keepsInv fun _ h hl => run_inv (startByte_inv ⟨h, hl⟩ trivial)
  | fill len =>
    exact guarded_keepsInv fun _ h hl =>
      run_inv (fillNext_inv ⟨h, hl⟩ (by have := len.isLt; omega))
  | xstream =>
    exact guarded_keepsInv fun _ h hl =>
      run_inv (wait_inv h ⟨Phase.unfaulted_of_producing hl, fun _ => hl, h.build.2.2.2⟩)
  | xstreamx => exact guarded_keepsInv fun _ h hl => run_inv (wait_inv h ⟨hl, nofun, h.build.2.2.2⟩)
  | reval nb rule => exact guarded_keepsInv fun _ h _ => rsp_inv h _ _
  | revalc nb rule => exact guarded_keepsInv fun _ h _ => rsp_inv h _ _
  | rdreg num =>
    exact fun s t h ht => Host.Outcome.next.inj ((execRdreg_eq num s).symm.trans ht) ▸ readRegister_inv h num
  | rdcell idx =>
    exact guarded_keepsInv fun s h _ => by
      split
      · exact raise_inv h nofun
      · exact rsp_inv h _ _

theorem State.takeCmd_build_regs {s u : State} {w : Word} (h : s.takeCmd = some (w, u)) :
    u.build = s.build ∧ u.regs = s.regs := by
  obtain ⟨rest, -, rfl⟩ := State.takeCmd_eq_some.1 h
  exact ⟨rfl, rfl⟩

theorem proceed_inv {s t : State} (h : BlockInv s) (hp : proceed s = .next t) : BlockInv t := by
  obtain ⟨hregs, -⟩ := blockInv_iff.1 h
  have taken {w : Word} {u : State} (hc : s.takeCmd = some (w, u)) : RegsOk u.build u.regs := by
    obtain ⟨hb, hr⟩ := State.takeCmd_build_regs hc
    rwa [hb, hr]
  obtain ⟨j, -, rfl⟩ | ⟨-, -, rfl⟩ | ⟨w, u, i, -, hc, -, he⟩ | ⟨w, u, e, -, hc, -, rfl⟩ := proceed_cases hp
  · exact run_inv h
  · exact h
  · exact exec_inv i u t (taken hc) he
  · unfold State.illegalCommand
    split
    · exact dropped_inv (taken hc)
    · exact raise_inv (taken hc) nofun

/-- After either form of reset the invariant holds, whatever was in progress. -/
theorem inv_of_reset {s : State} (hb : s.build.wf) (hr : s.regs = resetRegs) (hj : s.job = none) : BlockInv s :=
  blockInv_iff.2 ⟨hr ▸ resetRegs_ok hb, by simp [hj]⟩

/-- The invariant does not speak of the reset pin. -/
theorem withRst_inv {s : State} (h : BlockInv s) (x : ResetPin) : BlockInv (s.withRst x) := h

/-- Settles O16: by what a step can do, it is a reset, or it proceeds, perhaps cut short by one. -/
theorem stepKeepsBlockInvariant : Obligations.StepKeepsBlockInvariant := by
  intro s t h hs
  have hb : s.build.wf := h.1
  obtain ⟨-, hp⟩ | ⟨-, rfl⟩ | ⟨k, u, -, hp, rfl⟩ := step_cases hs
  · exact proceed_inv h hp
  · exact inv_of_reset hb rfl rfl
  · obtain ⟨-, hk⟩ | ⟨-, hk⟩ := State.resetWithin_cases s k u
    · exact hk ▸ inv_of_reset hb rfl rfl
    · exact hk ▸ withRst_inv (proceed_inv h hp) _

/-- Settles O17: the reset values fit every build. -/
theorem resetMeetsBlockInvariant : Obligations.ResetMeetsBlockInvariant :=
  fun _ hb => inv_of_reset hb rfl rfl

end Sys2Proof.Machine
end

section
/-! PROOFS. The configuration registers are frozen from seeding to reset (spec/10_state.md R43, R271). What a command in
progress can do to the registers is said once, as a chain of the register operations of the rules (`RegsReach`); none of
them writes a configuration register, and the commands that do are allowed only in IDLE (R108). -/

namespace Sys2Proof.Machine

/-! ## What a command in progress does to the registers -/

/-- One operation on the registers by a command that talks to the environment, or its fault. -/
inductive RegsMove : Regs → Regs → Prop
  | evolve (r : Regs) : RegsMove r (evolve r)
  | afterByte (r : Regs) : RegsMove r (afterByte r)
  | flipCell (d : Word) (r : Regs) : RegsMove r (flipCell d r)
  | trialCell (d : Word) (r : Regs) : RegsMove r (trialCell d r)
  | loadCells (v : Byte) (r : Regs) : RegsMove r (loadCells v r)
  | seeded (r : Regs) : RegsMove r { seededRegs r with degr := true }
  | fault (c : Err) (r : Regs) : RegsMove r { r with err := c, phase := .fault }

/-- Any number of them. -/
abbrev RegsReach : Regs → Regs → Prop := Relation.ReflTransGen RegsMove

theorem evolveTimes_reach (k : Nat) (r : Regs) : RegsReach r (evolveTimes k r) := by
  induction k generalizing r with
  | zero => exact .refl
  | succ k ih => exact .head (.evolve r) (ih (evolve r))

theorem raise_reach (c : Err) (s : State) : RegsReach s.regs (s.raise c).regs := .single (.fault c s.regs)

theorem seedRawSymbol_reach (cnt : Nat) (d : Symbol) (s : State) : RegsReach s.regs (seedRawSymbol cnt d s).regs := by
  cases d with
  | ioErr => exact raise_reach _ s
  | endFrame =>
    unfold seedRawSymbol; simp only []; split
    · exact raise_reach _ s
    · exact .single (.seeded s.regs)
  | data v =>
    unfold seedRawSymbol; simp only []; split
    · exact .single (.loadCells v s.regs)
    · exact .refl

theorem streamOffer_regs (src : KeySource) (cnt : Nat) (last : Bool) (bytes : List Byte) (s : State) :
    (streamOffer src cnt last bytes s).regs = s.regs := by
  cases bytes with
  | cons v rest => rfl
  | nil => unfold streamOffer; simp only []; split <;> rfl

theorem keyBytes_reach (cnt : Nat) (last : Bool) (ib : List Byte) (left : Nat) (kb : List Byte) (s : State) :
    RegsReach s.regs (keyBytes cnt last ib left kb s).regs := by
  induction left generalizing kb s with
  | zero => rw [keyBytes, streamOffer_regs]
  | succ left ih =>
    have hevolved : RegsReach s.regs s.evolved.regs := evolveTimes_reach _ _
    unfold keyBytes; split
    · exact hevolved
    · exact (hevolved.tail (.afterByte _)).trans (ih _ s.evolved.produced)

theorem finishByte_reach (u : ByteUse) (s : State) : RegsReach s.regs (finishByte u s).regs := by
  have hproduced : RegsReach s.regs s.produced.regs := .single (.afterByte _)
  cases u with
  | genb => exact hproduced
  | fill left cnt => exact hproduced
  | key left cnt last ib kb => exact hproduced.trans (keyBytes_reach _ _ _ _ _ s.produced)

theorem startByte_reach (u : ByteUse) (s : State) : RegsReach s.regs (startByte u s).regs := by
  have hevolved : RegsReach s.regs s.evolved.regs := evolveTimes_reach _ _
  unfold startByte; split
  · exact hevolved
  · exact hevolved.trans (finishByte_reach u s.evolved)

theorem nextTrial_reach (u : ByteUse) (left : Nat) (s : State) : RegsReach s.regs (nextTrial u left s).regs := by
  cases left with
  | zero => exact finishByte_reach u s
  | succ left => exact .refl

theorem drawAnswer_reach (p : DrawPoint) (u : ByteUse) (d : Word) (s : State) :
    RegsReach s.regs (drawAnswer p u d s).regs := by
  cases p with
  | gate2 =>
    unfold drawAnswer; simp only []; split
    · exact .refl
    · exact finishByte_reach u s
  | gate1 =>
    unfold drawAnswer; simp only []; split
    · exact .refl
    · exact nextTrial_reach u _ s
  | flip => exact .head (.flipCell d s.regs) (nextTrial_reach u _ (s.withRegs _))
  | trial left => exact .head (.trialCell d s.regs) (nextTrial_reach u left (s.withRegs _))

theorem fillNext_reach (left cnt : Nat) (s : State) : RegsReach s.regs (fillNext left cnt s).regs := by
  cases left with
  | zero => exact .refl
  | succ left => exact startByte_reach _ s

theorem fillAnswer_reach (left cnt : Nat) (a : Answer) (s : State) :
    RegsReach s.regs (fillAnswer left cnt a s).regs := by
  cases a with
  | ok => exact fillNext_reach _ _ s
  | ioerr => exact raise_reach _ s

theorem keyFill_reach (src : KeySource) (cnt : Nat) (last : Bool) (ib : List Byte) (s : State) :
    RegsReach s.regs (keyFill src cnt last ib s).regs := by
  cases src with
  | int => exact keyBytes_reach _ _ _ _ _ s
  | ext => exact .refl

theorem readSymbol_reach (src : KeySource) (cnt : Nat) (ib : List Byte) (d : Symbol) (s : State) :
    RegsReach s.regs (readSymbol src cnt ib d s).regs := by
  cases d with
  | ioErr => exact raise_reach _ s
  | endFrame =>
    unfold readSymbol; simp only []; split
    · exact .refl
    · exact keyFill_reach _ _ _ _ s
  | data v =>
    unfold readSymbol; simp only []; split
    · exact .refl
    · exact keyFill_reach _ _ _ _ s

theorem keyByte_regs (cnt : Nat) (last : Bool) (ib kb : List Byte) (v : Byte) (s : State) :
    (keyByte cnt last ib kb v s).regs = s.regs := by
  unfold keyByte; split
  · rfl
  · exact streamOffer_regs _ _ _ _ s

theorem writeAnswer_reach (src : KeySource) (cnt : Nat) (last : Bool) (rest : List Byte) (a : Answer) (s : State) :
    RegsReach s.regs (writeAnswer src cnt last rest a s).regs := by
  cases a with
  | ok => rw [writeAnswer, streamOffer_regs, progress_regs]
  | ioerr => exact raise_reach _ s

/-- An advance is a chain of the register operations. -/
theorem advance_reach {j : Job} {s t : State} (h : advance j s = some t) : RegsReach s.regs t.regs := by
  obtain ⟨u, hu, -, hr⟩ := advance_advancesTo h
  rw [← hr]
  cases hu with
  | seedRaw cnt d => exact seedRawSymbol_reach cnt d u
  | draw p use d => exact drawAnswer_reach p use d u
  | fillOut left cnt v a => exact fillAnswer_reach left cnt a u
  | read src cnt ib d => exact readSymbol_reach src cnt ib d u
  | keyIn cnt last ib kb v => rw [keyByte_regs]
  | write src cnt last v rest a => exact writeAnswer_reach src cnt last rest a u

theorem run_reach (s : State) : RegsReach s.regs s.run.regs :=
  State.run_keeps (fun t => RegsReach s.regs t.regs) (fun ht _ ha => ht.trans (advance_reach ha)) .refl

/-! ## The build -/

theorem run_build (s : State) : s.run.build = s.build :=
  State.run_keeps (fun t => t.build = s.build)
    (fun ht _ ha => by obtain ⟨-, hb, -⟩ := advance_takes ha; exact hb.trans ht) rfl

theorem exec_build {i : Instr} {s t : State} (h : exec i s = .next t) : t.build = s.build := by
  obtain ⟨f, hf, hrun⟩ := exec_opens i
  obtain rfl : t = (f s).run := Host.Outcome.next.inj (h.symm.trans (hrun s))
  exact (run_build _).trans (hf.same s).1

theorem illegalCommand_build (s : State) : s.illegalCommand.build = s.build := by
  unfold State.illegalCommand; split <;> rfl

theorem proceed_build {s t : State} (h : proceed s = .next t) : t.build = s.build := by
  obtain ⟨j, -, rfl⟩ | ⟨-, -, rfl⟩ | ⟨w, u, i, -, hc, -, he⟩ | ⟨w, u, e, -, hc, -, rfl⟩ := proceed_cases h
  · exact run_build s
  · rfl
  · exact (exec_build he).trans (State.takeCmd_build_regs hc).1
  · exact (illegalCommand_build u).trans (State.takeCmd_build_regs hc).1

/-! ## The configuration registers -/

theorem SameConfig.refl (r : Regs) : SameConfig r r := ⟨⟨rfl, rfl, rfl⟩, ⟨rfl, rfl, rfl⟩, rfl, rfl, rfl, rfl⟩

theorem SameConfig.trans {r q p : Regs} (h : SameConfig r q) (k : SameConfig q p) : SameConfig r p := by
  obtain ⟨⟨h1, h2, h3⟩, ⟨h4, h5, h6⟩, h7, h8, h9, h10⟩ := h
  obtain ⟨⟨k1, k2, k3⟩, ⟨k4, k5, k6⟩, k7, k8, k9, k10⟩ := k
  exact ⟨⟨k1.trans h1, k2.trans h2, k3.trans h3⟩, ⟨k4.trans h4, k5.trans h5, k6.trans h6⟩, k7.trans h7, k8.trans h8,
    k9.trans h9, k10.trans h10⟩

theorem RegsMove.sameConfig {r q : Regs} (h : RegsMove r q) : SameConfig r q := by
  cases h <;> exact SameConfig.refl r

theorem RegsReach.sameConfig {r q : Regs} (h : RegsReach r q) : SameConfig r q := by
  induction h with
  | refl => exact SameConfig.refl r
  | tail _ hmove ih => exact ih.trans hmove.sameConfig

/-- From SEEDED, WARMED and RUNNING a command either resets or leaves the configuration as it is. -/
def FreezesConfig (e : State → Host.Outcome State Fault Refusal) : Prop :=
  ∀ s t : State, s.regs.phase.active = true → e s = .next t → t.regs.phase = .idle ∨ SameConfig s.regs t.regs

/-- A guarded command freezes the configuration if its body does, in the phases that allow the command. -/
theorem guarded_freezesConfig {i : Instr} {body : State → State}
    (hb : ∀ s : State, s.regs.phase.active = true → legalIn i s.regs.phase = true → SameConfig s.regs (body s).regs) :
    FreezesConfig (guarded i body) := by
  intro s t ha ht
  obtain ⟨-, rfl⟩ | ⟨-, -, rfl⟩ | ⟨-, -, -, rfl⟩ | ⟨-, -, hl, rfl⟩ := guarded_cases ht
  · exact .inr (SameConfig.refl _)
  · exact .inr (SameConfig.refl _)
  · exact .inr (SameConfig.refl _)
  · exact .inr (hb s ha hl)

theorem readRegister_sameConfig (num : Imm) (s : State) : SameConfig s.regs (readRegister num s).regs := by
  unfold readRegister
  cases s.register num.toNat with
  | some v => exact SameConfig.refl _
  | none =>
    rw [Option.elim_none]
    split <;> exact SameConfig.refl _

theorem exec_freezesConfig (i : Instr) : FreezesConfig (exec i) := by
  cases i with
  | srst => exact fun s t _ ht => .inl (Host.Outcome.next.inj ht ▸ rfl)
  | rdreg num =>
    exact fun s t _ ht =>
      .inr (Host.Outcome.next.inj ((execRdreg_eq num s).symm.trans ht) ▸ readRegister_sameConfig num s)
  | setn | rsclr | rspush | setc1 | setc2 | setipb | setwarm | setmode | setxi | setdlen | seed | seedraw =>
    exact guarded_freezesConfig fun _ ha hl => absurd ha (Phase.not_active_of_isIdle hl)
  | nop | mix | reval | revalc => exact guarded_freezesConfig fun s _ _ => SameConfig.refl s.regs
  | lddig | rdcell => exact guarded_freezesConfig fun s _ _ => by split <;> exact SameConfig.refl s.regs
  | warmup => exact guarded_freezesConfig fun s _ _ => (evolveTimes_reach s.regs.warm.toNat s.regs).sameConfig
  | genb => exact guarded_freezesConfig fun s _ _ => RegsReach.sameConfig ((startByte_reach _ s).trans (run_reach _))
  | fill => exact guarded_freezesConfig fun s _ _ => RegsReach.sameConfig ((fillNext_reach _ _ s).trans (run_reach _))
  | xstream | xstreamx => exact guarded_freezesConfig fun s _ _ => (run_reach (s.wait _)).sameConfig

theorem illegalCommand_sameConfig (s : State) : SameConfig s.regs s.illegalCommand.regs := by
  unfold State.illegalCommand; split <;> exact SameConfig.refl s.regs

theorem proceed_freezesConfig : FreezesConfig proceed := by
  intro s t ha h
  obtain ⟨j, -, rfl⟩ | ⟨-, -, rfl⟩ | ⟨w, u, i, -, hc, -, he⟩ | ⟨w, u, e, -, hc, -, rfl⟩ := proceed_cases h
  · exact .inr (run_reach s).sameConfig
  · exact .inr (SameConfig.refl _)
  · obtain ⟨-, hr⟩ := State.takeCmd_build_regs hc
    exact hr ▸ exec_freezesConfig i u t (hr ▸ ha) he
  · obtain ⟨-, hr⟩ := State.takeCmd_build_regs hc
    exact .inr (hr ▸ illegalCommand_sameConfig u)

/-- Settles O18: a step that proceeds freezes the configuration, and one that is cut short ends in IDLE. -/
theorem configurationIsFrozen : Obligations.ConfigurationIsFrozen := by
  intro s t hs
  obtain ⟨-, hp⟩ | ⟨-, rfl⟩ | ⟨k, u, -, hp, rfl⟩ := step_cases hs
  · exact ⟨proceed_build hp, fun ha hi => (proceed_freezesConfig s t ha hp).resolve_left hi⟩
  · exact ⟨rfl, fun _ hi => absurd rfl hi⟩
  · obtain ⟨-, hk⟩ | ⟨-, hk⟩ := State.resetWithin_cases s k u
    · rw [hk]
      exact ⟨rfl, fun _ hi => absurd rfl hi⟩
    · have hb : u.build = s.build := proceed_build hp
      rw [hk]
      exact ⟨hb, fun ha hi => (proceed_freezesConfig s u ha hp).resolve_left hi⟩

end Sys2Proof.Machine
end

section
/-! PROOFS. The digest buffer is write-only (spec/10_state.md R38): `SEED` and `MIX` alone read it, `LDDIG` alone writes
it, and the two resets clear it. So each piece of every other command commutes with putting another buffer in its place. -/

namespace Sys2Proof.Machine

section
variable (m : Memory) (s : State)

/-- Operations that commute with the exchange of the buffer may be chosen between. -/
theorem ite_withDig {c : Prop} [Decidable c] {s' s t' t : State} {m : Memory} (hs : s' = s.withDig m)
    (ht : t' = t.withDig m) : (if c then s' else t') = (if c then s else t).withDig m := by
  rw [hs, ht, apply_ite (State.withDig m)]

/-! ## The pieces of a command between two waits -/

theorem evolveTimes_withDig (k : Nat) (r : Regs) :
    evolveTimes k { r with dig := m } = { evolveTimes k r with dig := m } :=
  (evolveTimes_comm (f := fun q => { q with dig := m }) (fun _ => rfl) k r).symm

theorem evolved_withDig : (s.withDig m).evolved = s.evolved.withDig m :=
  congrArg s.withRegs (evolveTimes_withDig m _ s.regs)

theorem seedRawSymbol_withDig (cnt : Nat) (d : Symbol) :
    seedRawSymbol cnt d (s.withDig m) = (seedRawSymbol cnt d s).withDig m := by
  cases d with
  | ioErr => rfl
  | endFrame => exact ite_withDig rfl rfl
  | data v => exact ite_withDig rfl rfl

theorem streamOffer_withDig (src : KeySource) (cnt : Nat) (last : Bool) (bytes : List Byte) :
    streamOffer src cnt last bytes (s.withDig m) = (streamOffer src cnt last bytes s).withDig m := by
  cases bytes with
  | cons v rest => rfl
  | nil => exact ite_withDig rfl rfl

theorem keyBytes_withDig (cnt : Nat) (last : Bool) (ib : List Byte) (left : Nat) (kb : List Byte) :
    keyBytes cnt last ib left kb (s.withDig m) = (keyBytes cnt last ib left kb s).withDig m := by
  induction left generalizing kb s with
  | zero => exact streamOffer_withDig m s _ _ _ _
  | succ left ih =>
    rw [keyBytes, keyBytes, evolved_withDig]
    exact ite_withDig rfl (ih s.evolved.produced _)

theorem finishByte_withDig (u : ByteUse) : finishByte u (s.withDig m) = (finishByte u s).withDig m := by
  cases u with
  | genb => rfl
  | fill left cnt => rfl
  | key left cnt last ib kb => exact keyBytes_withDig m s.produced _ _ _ _ _

theorem startByte_withDig (u : ByteUse) : startByte u (s.withDig m) = (startByte u s).withDig m := by
  rw [startByte, startByte, evolved_withDig]
  exact ite_withDig rfl (finishByte_withDig m s.evolved u)

theorem nextTrial_withDig (u : ByteUse) (left : Nat) :
    nextTrial u left (s.withDig m) = (nextTrial u left s).withDig m := by
  cases left with
  | zero => exact finishByte_withDig m s u
  | succ left => rfl

theorem drawAnswer_withDig (p : DrawPoint) (u : ByteUse) (d : Word) :
    drawAnswer p u d (s.withDig m) = (drawAnswer p u d s).withDig m := by
  cases p with
  | gate2 => exact ite_withDig rfl (finishByte_withDig m s u)
  | gate1 => exact ite_withDig rfl (nextTrial_withDig m s u _)
  | flip => exact nextTrial_withDig m (s.withRegs (flipCell d s.regs)) u s.regs.trials
  | trial left => exact nextTrial_withDig m (s.withRegs (trialCell d s.regs)) u left

theorem fillNext_withDig (left cnt : Nat) : fillNext left cnt (s.withDig m) = (fillNext left cnt s).withDig m := by
  cases left with
  | zero => rfl
  | succ left => exact startByte_withDig m s _

theorem fillAnswer_withDig (left cnt : Nat) (a : Answer) :
    fillAnswer left cnt a (s.withDig m) = (fillAnswer left cnt a s).withDig m := by
  cases a with
  | ok => exact fillNext_withDig m s _ _
  | ioerr => rfl

theorem keyFill_withDig (src : KeySource) (cnt : Nat) (last : Bool) (ib : List Byte) :
    keyFill src cnt last ib (s.withDig m) = (keyFill src cnt last ib s).withDig m := by
  cases src with
  | int => exact keyBytes_withDig m s _ _ _ _ _
  | ext => rfl

theorem readSymbol_withDig (src : KeySource) (cnt : Nat) (ib : List Byte) (d : Symbol) :
    readSymbol src cnt ib d (s.withDig m) = (readSymbol src cnt ib d s).withDig m := by
  cases d with
  | ioErr => rfl
  | endFrame => exact ite_withDig rfl (keyFill_withDig m s _ _ _ _)
  | data v => exact ite_withDig rfl (keyFill_withDig m s _ _ _ _)

theorem keyByte_withDig (cnt : Nat) (last : Bool) (ib kb : List Byte) (v : Byte) :
    keyByte cnt last ib kb v (s.withDig m) = (keyByte cnt last ib kb v s).withDig m :=
  ite_withDig rfl (streamOffer_withDig m s _ _ _ _)

theorem progress_withDig (cnt : Nat) : progress cnt (s.withDig m) = (progress cnt s).withDig m := ite_withDig rfl rfl

theorem writeAnswer_withDig (src : KeySource) (cnt : Nat) (last : Bool) (rest : List Byte) (a : Answer) :
    writeAnswer src cnt last rest a (s.withDig m) = (writeAnswer src cnt last rest a s).withDig m := by
  cases a with
  | ok => simp only [writeAnswer, progress_withDig, streamOffer_withDig]
  | ioerr => rfl

/-! ## Advances and runs -/

theorem takeDin_withDig : (s.withDig m).takeDin = s.takeDin.map (Prod.map id (State.withDig m)) := by
  cases h : s.ports.din <;> simp [State.takeDin, State.withDig, h]

theorem takeAnswer_withDig (v : Byte) :
    (s.withDig m).takeAnswer v = (s.takeAnswer v).map (Prod.map id (State.withDig m)) := by
  cases h : s.ports.sink <;> simp [State.takeAnswer, State.withDig, h]

theorem takeKey_withDig : (s.withDig m).takeKey = s.takeKey.map (Prod.map id (State.withDig m)) := by
  cases h : s.ports.kin <;> simp [State.takeKey, State.withDig, h]

theorem takeDraw_withDig : (s.withDig m).takeDraw = s.takeDraw.map (Prod.map id (State.withDig m)) := by
  cases h : s.ports.drw <;> simp [State.takeDraw, State.withDig, h]

/-- An item taken from a port, then a piece that commutes with the exchange of the buffer. -/
theorem map_withDig {α : Type} {m : Memory} {o o' : Option (α × State)} {f : α → State → State}
    (ho : o' = o.map (Prod.map id (State.withDig m))) (hf : ∀ s a, f a (s.withDig m) = (f a s).withDig m) :
    (o'.map fun t => f t.1 t.2) = (o.map fun t => f t.1 t.2).map (State.withDig m) := by
  subst ho
  cases o with
  | none => rfl
  | some t => exact congrArg some (hf t.2 t.1)

theorem advance_withDig (j : Job) : advance j (s.withDig m) = (advance j s).map (State.withDig m) := by
  cases j with
  | seedRaw cnt => exact map_withDig (takeDin_withDig m s) fun s d => seedRawSymbol_withDig m s cnt d
  | draw p u => exact map_withDig (takeDraw_withDig m s) fun s d => drawAnswer_withDig m s p u d
  | fillOut left cnt v => exact map_withDig (takeAnswer_withDig m s v) fun s a => fillAnswer_withDig m s left cnt a
  | read src cnt ib => exact map_withDig (takeDin_withDig m s) fun s d => readSymbol_withDig m s src cnt ib d
  | keyIn cnt last ib kb => exact map_withDig (takeKey_withDig m s) fun s v => keyByte_withDig m s cnt last ib kb v
  | write src cnt last v rest =>
    exact map_withDig (takeAnswer_withDig m s v) fun s a => writeAnswer_withDig m s src cnt last rest a

theorem runFor_withDig (k : Nat) : runFor k (s.withDig m) = (runFor k s).withDig m := by
  induction k generalizing s with
  | zero => rfl
  | succ k ih =>
    have hjob : (s.withDig m).job = s.job := rfl
    cases hj : s.job with
    | none => simp only [runFor, hjob, hj]
    | some j =>
      cases ha : advance j s with
      | none => simp only [runFor, hjob, hj, advance_withDig, ha, Option.map_none]
      | some t => simp only [runFor, hjob, hj, advance_withDig, ha, Option.map_some, ih]

theorem run_withDig : (s.withDig m).run = s.run.withDig m := runFor_withDig m s _

theorem readRegister_withDig (num : Imm) : readRegister num (s.withDig m) = (readRegister num s).withDig m := by
  have hnum : (s.withDig m).register num.toNat = s.register num.toNat := rfl
  unfold readRegister
  rw [hnum]
  cases s.register num.toNat with
  | none => exact ite_withDig rfl rfl
  | some v => rfl

end

/-! ## Commands -/

/-- A command that does the same whatever the buffer holds, and leaves it. -/
def DigBlind (e : State → Host.Outcome State Fault Refusal) : Prop :=
  ∀ (m : Memory) (s t : State), e s = .next t → e (s.withDig m) = .next (t.withDig m)

theorem digBlind_of_next {e : State → Host.Outcome State Fault Refusal} {f : State → State}
    (he : ∀ s, e s = .next (f s)) (hf : ∀ m s, f (s.withDig m) = (f s).withDig m) : DigBlind e := by
  intro m s t h
  obtain rfl : t = f s := Host.Outcome.next.inj (h.symm.trans (he s))
  rw [he, hf]

/-- The checks of R251 do not look at the buffer. -/
theorem guarded_digBlind {i : Instr} {body : State → State} (hb : ∀ m s, body (s.withDig m) = (body s).withDig m) :
    DigBlind (guarded i body) :=
  digBlind_of_next (fun _ => rfl) fun m s => ite_withDig rfl (ite_withDig rfl (ite_withDig rfl (hb m s)))

/-- Settles O59: the commands that write registers and those that only answer commute with the exchange as they stand;
the others do so piece by piece. -/
theorem digestBufferIsWriteOnly : Obligations.DigestBufferIsWriteOnly := by
  intro i m s t hseed hmix hlddig hsrst
  suffices h : DigBlind (exec i) from h m s t
  cases i with
  | seed => exact absurd rfl hseed
  | mix => exact absurd rfl hmix
  | lddig pos val => exact absurd rfl (hlddig pos val)
  | srst => exact absurd rfl hsrst
  | nop | setn | rsclr | setc1 | setc2 | setipb | setwarm | setmode | setxi | reval | revalc =>
    exact guarded_digBlind fun _ _ => rfl
  | rspush | setdlen | rdcell => exact guarded_digBlind fun _ _ => ite_withDig rfl rfl
  | seedraw =>
    exact guarded_digBlind fun m s =>
      ite_withDig (run_withDig m ((s.withRegs { s.regs with grid := [] }).wait (.seedRaw 0))) rfl
  | warmup =>
    exact guarded_digBlind fun m s => congrArg (fun r : Regs => (s.withRegs { r with phase := .warmed }).rsp .none 0)
      (evolveTimes_withDig m s.regs.warm.toNat s.regs)
  | genb => exact guarded_digBlind fun m s => by rw [startByte_withDig, run_withDig]
  | fill len => exact guarded_digBlind fun m s => by rw [fillNext_withDig, run_withDig]
  | xstream | xstreamx => exact guarded_digBlind fun m s => run_withDig m (s.wait _)
  | rdreg num => exact digBlind_of_next (execRdreg_eq num) fun m s => readRegister_withDig m s num

end Sys2Proof.Machine
end

section
/-! PROOFS. What the register numbers of `RDREG` show (spec/10_state.md R42, spec/45_system_readback.md R208), in every
state and right after reset (spec/10_state.md R49). -/

namespace Sys2Proof.Machine

/-! ## `RDREG` in every state -/

/-- `STATUS` as the two fields it shows (R25). -/
theorem Regs.status_toNat (r : Regs) : r.status.toNat = r.degr.toNat * 8 + r.phase.code.toNat := by
  unfold Regs.status
  cases r.degr <;> cases r.phase <;> rfl

/-- A number that names a register is answered with its value under the sticky `ERR`. -/
theorem exec_rdreg_of_register {s : State} {n v : Nat} (hn : n < 1048576) (h : s.register n = some v) :
    exec (.rdreg (BitVec.ofNat 20 n)) s = .next (s.answered s.regs (s.regs.err.code ++ BitVec.ofNat 24 v)) := by
  have hnum : (BitVec.ofNat 20 n).toNat = n := BitVec.toNat_ofNat n 20 ▸ Nat.mod_eq_of_lt hn
  refine (execRdreg_eq _ s).trans (congrArg _ ?_)
  rw [readRegister, hnum, h, Option.elim_some, State.rsp_eq_answered]

/-- A number that names no register is `E_RANGE`, or dropped in FAULT. -/
theorem exec_rdreg_of_unknown {s : State} {num : Imm} (h : s.register num.toNat = none) :
    exec (.rdreg num) s = .next (if s.regs.phase = .fault then s.dropped else s.raise .range) := by
  refine (execRdreg_eq num s).trans (congrArg _ ?_)
  rw [readRegister, h, Option.elim_none]

/-- Settles O47: each number of R42 names its register, and every other number names none. -/
theorem rdregReadsEveryRegister : Obligations.RdregReadsEveryRegister := by
  intro s hb reads
  have hlmax : s.build.lmax ≤ 256 := hb.2.1.2
  have named {n v : Nat} (hn : n < 1048576) (h : s.register n = some v) : reads n v := exec_rdreg_of_register hn h
  refine ⟨named (by decide) rfl, named (by decide) (congrArg some s.regs.status_toNat), named (by decide) rfl,
    named (by decide) rfl, named (by decide) rfl, named (by decide) rfl, named (by decide) rfl, named (by decide) rfl,
    named (by decide) rfl, named (by decide) rfl, named (by decide) rfl, named (by decide) rfl, named (by decide) rfl,
    named (by decide) rfl, named (by decide) rfl, named (by decide) rfl, fun k => ?index, fun k hk => ?schedule,
    fun num hnum => ?unknown⟩
  case index => exact named (by omega) (s.register_index k)
  case schedule => exact named (by omega) (s.register_schedule k hk)
  case unknown =>
    have h := exec_rdreg_of_unknown (s.register_unknown num.toNat hnum)
    exact ⟨fun hp => by rw [h, if_neg hp, State.raise_eq_faulted],
      fun hp => by rw [h, if_pos hp, State.dropped_eq_answered]⟩

/-! ## The values right after reset -/

/-- After reset the schedule store holds the four default rules and zeros (R49). -/
theorem resetRegs_rs_read_above {k : Nat} (h : 4 ≤ k) : resetRegs.rs.read k = 0#8 := by
  simp [resetRegs, Memory.read_cons, Memory.unlisted, show k ≠ 0 by omega, show k ≠ 1 by omega, show k ≠ 2 by omega,
    show k ≠ 3 by omega]

theorem resetRegs_xi : ∀ k : Fin 8, resetRegs.xi[k] = 0#20 := by decide

/-- Settles O52: the named numbers show the fields of `resetRegs`, the others go through the two stores. -/
theorem resetValuesOfTheTable : Obligations.ResetValuesOfTheTable := by
  intro b hb s
  have hlmax : 8 ≤ b.lmax := hb.2.1.1
  have schedule {k : Nat} (hk : k < b.lmax) : s.register (0x100 + k) = some (resetRegs.rs.read k).toNat :=
    s.register_schedule k hk
  refine ⟨⟨rfl, congrArg some resetRegs.status_toNat, rfl, rfl, rfl, rfl, rfl, rfl, rfl, rfl, rfl, rfl, rfl, rfl, rfl,
      rfl⟩,
    ⟨schedule (k := 0) (by omega), schedule (k := 1) (by omega), schedule (k := 2) (by omega),
      schedule (k := 3) (by omega)⟩, fun k h4 hk => ?above, fun k hk => ?index, fun _ => rfl, rfl⟩
  case above => rw [schedule hk, resetRegs_rs_read_above h4]; rfl
  case index => exact (s.register_index ⟨k, hk⟩).trans (congrArg (fun x : Imm => some x.toNat) (resetRegs_xi ⟨k, hk⟩))

end Sys2Proof.Machine
end

section
/-! PROOFS. A step takes at most one command word and runs the command it decodes to (spec/20_memory.md R73,
spec/30_encoding.md R90, spec/60_exceptions.md R258, spec/70_reset_and_hazards.md R265). Only the front of
`proceed` takes a word from `CMD`: in any other part of a step the items that cross are no command words. A step that
`RST` cuts short lets only the first of its items cross, so it takes no more words than one that is not cut short. -/

namespace Sys2Proof

/-! ## The decoder yields only well-formed commands (R90, R95) -/

/-- What a row of the opcode map may answer: an error, or a well-formed command. -/
def YieldsWellFormed (r : Except Illegal Instr) : Prop := ∀ i, r = .ok i → i.wellFormed = true

theorem ok_yieldsWellFormed {i : Instr} (h : i.wellFormed = true) : YieldsWellFormed (.ok i) := by
  rintro _ ⟨⟩; exact h

theorem error_yieldsWellFormed (e : Illegal) : YieldsWellFormed (.error e) := nofun

theorem ite_yieldsWellFormed {c : Prop} [Decidable c] {i : Instr} {e : Illegal} (h : i.wellFormed = true) :
    YieldsWellFormed (if c then .ok i else .error e) := by
  split
  · exact ok_yieldsWellFormed h
  · exact error_yieldsWellFormed e

theorem formatZ_yieldsWellFormed {w : Word} {i : Instr} (h : i.wellFormed = true) : YieldsWellFormed (formatZ w i) :=
  ite_yieldsWellFormed h

theorem formatI_yieldsWellFormed {w : Word} {f : Imm → Instr} (h : ∀ v, (f v).wellFormed = true) :
    YieldsWellFormed (formatI w f) := ite_yieldsWellFormed (h _)

theorem formatB_yieldsWellFormed {w : Word} {f : Byte → Byte → Instr} (h : ∀ p v, (f p v).wellFormed = true) :
    YieldsWellFormed (formatB w f) := ite_yieldsWellFormed (h _ _)

theorem formatR_yieldsWellFormed {w : Word} {f : BitVec 3 → Byte → Instr}
    (h : ∀ nb v, (f nb v).wellFormed = true) : YieldsWellFormed (formatR w f) := ite_yieldsWellFormed (h _ _)

/-- The rows with a restricted operand check it themselves (R95). -/
theorem checked_yieldsWellFormed (why : Illegal) (r : Except Illegal Instr) : YieldsWellFormed (checked why r) := by
  cases r with
  | error e => exact error_yieldsWellFormed e
  | ok i =>
    rw [checked]
    split
    · next h => exact ok_yieldsWellFormed h
    · exact error_yieldsWellFormed why

/-- Row by row, in the order of the opcode map: a row of a format without restrictions yields a well-formed command
whatever its operands, and the rows of R95 and `SETXI` check theirs. -/
theorem decode_yieldsWellFormed (w : Word) : YieldsWellFormed (decode w) := by
  unfold decode
  split
  case h_1 | h_2 | h_4 | h_14 | h_15 | h_16 | h_17 | h_18 | h_20 | h_21 => exact formatZ_yieldsWellFormed rfl
  case h_3 | h_6 | h_7 | h_8 | h_9 | h_12 | h_19 | h_24 | h_25 => exact formatI_yieldsWellFormed fun _ => rfl
  case h_5 | h_10 | h_11 => exact checked_yieldsWellFormed _ _
  case h_13 => exact formatB_yieldsWellFormed fun _ _ => rfl
  case h_22 | h_23 => exact formatR_yieldsWellFormed fun _ _ => rfl
  case h_26 => exact error_yieldsWellFormed _

end Sys2Proof

namespace Sys2Proof.Machine

/-! ## The front of a step: one word is taken from `CMD` -/

theorem State.takeCmd_of_cons {s : State} {w : Word} {rest : List Word} (h : s.ports.cmd = w :: rest) :
    s.takeCmd = some (w, s.accepted w rest) := State.takeCmd_eq_some.2 ⟨rest, h, rfl⟩

/-- With `RST` released and nothing in progress, a step is the meaning of the next word that decodes. -/
theorem step_of_decode {s : State} {w : Word} {rest : List Word} {i : Instr} (hr : s.ports.rst = .released)
    (hj : s.job = none) (hc : s.ports.cmd = w :: rest) (hd : decode w = .ok i) :
    step s = exec i (s.accepted w rest) := by
  simp only [step, hr, proceed, hj, State.takeCmd_of_cons hc, hd]

/-- Settles O7: the decoder checks what it yields, and the step runs it. -/
theorem stepRunsDecodedCommand : Obligations.StepRunsDecodedCommand := by
  intro s w rest i hr hj hc hd
  exact ⟨decode_yieldsWellFormed w i hd, step_of_decode hr hj hc hd⟩

/-! ## Items that cross leave `CMD` as it is, unless they are command words -/

/-- The item is a command word. -/
def Item.isCmd : Item → Bool
  | .cmd _ => true
  | _ => false

theorem Ports.cross_cmd (p : Ports) (x : Item) : (p.cross x).cmd = if x.isCmd then p.cmd.tail else p.cmd := by
  cases x <;> rfl

/-- Each command word that crosses leaves the queue. -/
theorem Ports.crossAll_cmd (xs : List Item) (p : Ports) :
    (xs.foldl Ports.cross p).cmd = p.cmd.drop (xs.countP Item.isCmd) := by
  induction xs generalizing p with
  | nil => rfl
  | cons x xs ih =>
    rw [List.foldl_cons, ih, Ports.cross_cmd, List.countP_cons]
    cases x.isCmd with
    | false => rfl
    | true => exact List.drop_tail

/-- The ports `q` are the ports `p` after some items have crossed, none of them a command word. -/
def CrossesNoCmd (p q : Ports) : Prop :=
  ∃ xs : List Item, xs.countP Item.isCmd = 0 ∧ q = xs.foldl Ports.cross p

theorem CrossesNoCmd.refl (p : Ports) : CrossesNoCmd p p := ⟨[], rfl, rfl⟩

theorem CrossesNoCmd.single (p : Ports) {x : Item} (h : x.isCmd = false) : CrossesNoCmd p (p.cross x) :=
  ⟨[x], by simp [h], rfl⟩

theorem CrossesNoCmd.trans {p q r : Ports} (h : CrossesNoCmd p q) (k : CrossesNoCmd q r) : CrossesNoCmd p r := by
  obtain ⟨xs, hxs, rfl⟩ := h
  obtain ⟨ys, hys, rfl⟩ := k
  exact ⟨xs ++ ys, by rw [List.countP_append, hxs, hys], List.foldl_append.symm⟩

/-! ## Between two waits only output items cross -/

theorem ite_crosses {c : Prop} [Decidable c] {p : Ports} {s t : State} (hs : CrossesNoCmd p s.ports)
    (ht : CrossesNoCmd p t.ports) : CrossesNoCmd p (if c then s else t).ports := by
  split
  · exact hs
  · exact ht

theorem wait_crosses (j : Job) (s : State) : CrossesNoCmd s.ports (s.wait j).ports := .refl _

theorem rsp_crosses (e : Err) (p : Nat) (s : State) : CrossesNoCmd s.ports (s.rsp e p).ports :=
  .single s.ports (x := .rsp (respWord e p)) rfl

theorem raise_crosses (c : Err) (s : State) : CrossesNoCmd s.ports (s.raise c).ports :=
  rsp_crosses c 0 (s.withRegs _)

theorem ask_crosses (k : DrawKind) (p : DrawPoint) (u : ByteUse) (s : State) :
    CrossesNoCmd s.ports (s.ask k p u).ports := .single s.ports (x := .drq k) rfl

theorem seedRawSymbol_crosses (cnt : Nat) (d : Symbol) (s : State) :
    CrossesNoCmd s.ports (seedRawSymbol cnt d s).ports := by
  cases d with
  | ioErr => exact raise_crosses _ _
  | endFrame => exact ite_crosses (raise_crosses _ _) (rsp_crosses _ _ (s.withRegs _))
  | data v => exact ite_crosses (.refl _) (.refl _)

theorem streamOffer_crosses (src : KeySource) (cnt : Nat) (last : Bool) (bytes : List Byte) (s : State) :
    CrossesNoCmd s.ports (streamOffer src cnt last bytes s).ports := by
  cases bytes with
  | cons v rest => exact wait_crosses _ _
  | nil => exact ite_crosses (rsp_crosses _ _ _) (wait_crosses _ _)

theorem keyBytes_crosses (cnt : Nat) (last : Bool) (ib : List Byte) (left : Nat) (kb : List Byte) (s : State) :
    CrossesNoCmd s.ports (keyBytes cnt last ib left kb s).ports := by
  induction left generalizing kb s with
  | zero => exact streamOffer_crosses _ _ _ _ _
  | succ left ih => exact ite_crosses (ask_crosses _ _ _ s.evolved) (ih _ s.evolved.produced)

theorem finishByte_crosses (u : ByteUse) (s : State) : CrossesNoCmd s.ports (finishByte u s).ports := by
  cases u with
  | genb => exact rsp_crosses _ _ s.produced
  | fill left cnt => exact wait_crosses _ s.produced
  | key left cnt last ib kb => exact keyBytes_crosses _ _ _ _ _ s.produced

theorem startByte_crosses (u : ByteUse) (s : State) : CrossesNoCmd s.ports (startByte u s).ports :=
  ite_crosses (ask_crosses _ _ _ s.evolved) (finishByte_crosses _ s.evolved)

theorem nextTrial_crosses (u : ByteUse) (left : Nat) (s : State) : CrossesNoCmd s.ports (nextTrial u left s).ports := by
  cases left with
  | zero => exact finishByte_crosses _ _
  | succ left => exact ask_crosses _ _ _ _

theorem drawAnswer_crosses (p : DrawPoint) (u : ByteUse) (d : Word) (s : State) :
    CrossesNoCmd s.ports (drawAnswer p u d s).ports := by
  cases p with
  | gate2 => exact ite_crosses (ask_crosses _ _ _ _) (finishByte_crosses _ _)
  | gate1 => exact ite_crosses (ask_crosses _ _ _ _) (nextTrial_crosses _ _ _)
  | flip => exact nextTrial_crosses _ _ (s.withRegs _)
  | trial left => exact nextTrial_crosses _ _ (s.withRegs _)

theorem fillNext_crosses (left cnt : Nat) (s : State) : CrossesNoCmd s.ports (fillNext left cnt s).ports := by
  cases left with
  | zero => exact rsp_crosses _ _ _
  | succ left => exact startByte_crosses _ _

theorem fillAnswer_crosses (left cnt : Nat) (a : Answer) (s : State) :
    CrossesNoCmd s.ports (fillAnswer left cnt a s).ports := by
  cases a with
  | ok => exact fillNext_crosses _ _ _
  | ioerr => exact raise_crosses _ _

theorem keyFill_crosses (src : KeySource) (cnt : Nat) (last : Bool) (ib : List Byte) (s : State) :
    CrossesNoCmd s.ports (keyFill src cnt last ib s).ports := by
  cases src with
  | int => exact keyBytes_crosses _ _ _ _ _ _
  | ext => exact .single s.ports (x := .krq _) rfl

theorem readSymbol_crosses (src : KeySource) (cnt : Nat) (ib : List Byte) (d : Symbol) (s : State) :
    CrossesNoCmd s.ports (readSymbol src cnt ib d s).ports := by
  cases d with
  | ioErr => exact raise_crosses _ _
  | endFrame => exact ite_crosses (rsp_crosses _ _ _) (keyFill_crosses _ _ _ _ _)
  | data v => exact ite_crosses (wait_crosses _ _) (keyFill_crosses _ _ _ _ _)

theorem keyByte_crosses (cnt : Nat) (last : Bool) (ib kb : List Byte) (v : Byte) (s : State) :
    CrossesNoCmd s.ports (keyByte cnt last ib kb v s).ports :=
  ite_crosses (wait_crosses _ _) (streamOffer_crosses _ _ _ _ _)

theorem progress_crosses (cnt : Nat) (s : State) : CrossesNoCmd s.ports (progress cnt s).ports :=
  ite_crosses (.single s.ports (x := .evt _) rfl) (.refl _)

theorem writeAnswer_crosses (src : KeySource) (cnt : Nat) (last : Bool) (rest : List Byte) (a : Answer) (s : State) :
    CrossesNoCmd s.ports (writeAnswer src cnt last rest a s).ports := by
  cases a with
  | ok => exact (progress_crosses _ s).trans (streamOffer_crosses _ _ _ _ _)
  | ioerr => exact raise_crosses _ _

/-! ## Taking an item is its crossing -/

theorem State.takeDin_ports {s t : State} {d : Symbol} (h : s.takeDin = some (d, t)) :
    t.ports = s.ports.cross (.din d) := by
  obtain ⟨rest, hd, rfl⟩ := State.takeDin_eq_some.1 h
  simp [Ports.cross, hd]

theorem State.takeAnswer_ports {v : Byte} {s t : State} {a : Answer} (h : s.takeAnswer v = some (a, t)) :
    t.ports = s.ports.cross (.dout v a) := by
  obtain ⟨rest, hd, rfl⟩ := State.takeAnswer_eq_some.1 h
  simp [Ports.cross, hd]

theorem State.takeKey_ports {s t : State} {v : Byte} (h : s.takeKey = some (v, t)) :
    t.ports = s.ports.cross (.kin v) := by
  obtain ⟨rest, hd, rfl⟩ := State.takeKey_eq_some.1 h
  simp [Ports.cross, hd]

theorem State.takeDraw_ports {s t : State} {d : Word} (h : s.takeDraw = some (d, t)) :
    t.ports = s.ports.cross (.drw d) := by
  obtain ⟨rest, hd, rfl⟩ := State.takeDraw_eq_some.1 h
  simp [Ports.cross, hd]

theorem State.takeCmd_ports {s t : State} {w : Word} (h : s.takeCmd = some (w, t)) :
    t.ports = s.ports.cross (.cmd w) := by
  obtain ⟨rest, hc, rfl⟩ := State.takeCmd_eq_some.1 h
  simp [Ports.cross, hc]

/-- An item taken by an advance is no command word, and what it leads to crosses none. -/
theorem CrossesNoCmd.after_item {p q r : Ports} {x : Item} (hx : x.isCmd = false) (hq : q = p.cross x)
    (hr : CrossesNoCmd q r) : CrossesNoCmd p r := (hq ▸ CrossesNoCmd.single p hx).trans hr

theorem advance_crosses {j : Job} {s t : State} (h : advance j s = some t) : CrossesNoCmd s.ports t.ports := by
  cases j with
  | seedRaw cnt =>
    obtain ⟨⟨d, u⟩, hd, rfl⟩ := Option.map_eq_some_iff.1 h
    exact .after_item rfl (State.takeDin_ports hd) (seedRawSymbol_crosses _ _ _)
  | draw p use =>
    obtain ⟨⟨d, u⟩, hd, rfl⟩ := Option.map_eq_some_iff.1 h
    exact .after_item rfl (State.takeDraw_ports hd) (drawAnswer_crosses _ _ _ _)
  | fillOut left cnt v =>
    obtain ⟨⟨a, u⟩, ha, rfl⟩ := Option.map_eq_some_iff.1 h
    exact .after_item rfl (State.takeAnswer_ports ha) (fillAnswer_crosses _ _ _ _)
  | read src cnt ib =>
    obtain ⟨⟨d, u⟩, hd, rfl⟩ := Option.map_eq_some_iff.1 h
    exact .after_item rfl (State.takeDin_ports hd) (readSymbol_crosses _ _ _ _ _)
  | keyIn cnt last ib kb =>
    obtain ⟨⟨v, u⟩, hv, rfl⟩ := Option.map_eq_some_iff.1 h
    exact .after_item rfl (State.takeKey_ports hv) (keyByte_crosses _ _ _ _ _ _)
  | write src cnt last v rest =>
    obtain ⟨⟨a, u⟩, ha, rfl⟩ := Option.map_eq_some_iff.1 h
    exact .after_item rfl (State.takeAnswer_ports ha) (writeAnswer_crosses _ _ _ _ _ _)

theorem run_crosses (s : State) : CrossesNoCmd s.ports s.run.ports :=
  State.run_keeps (fun t => CrossesNoCmd s.ports t.ports) (fun ht _ ha => ht.trans (advance_crosses ha)) (.refl _)

/-! ## No command takes a further command word -/

/-- The meaning of a command lets no command word cross. -/
def TakesNoCmd (e : State → Host.Outcome State Fault Refusal) : Prop :=
  ∀ s t : State, e s = .next t → CrossesNoCmd s.ports t.ports

theorem dropped_crosses (s : State) : CrossesNoCmd s.ports s.dropped.ports := rsp_crosses _ 0 s

theorem illegalCommand_crosses (s : State) : CrossesNoCmd s.ports s.illegalCommand.ports :=
  ite_crosses (dropped_crosses s) (raise_crosses _ s)

theorem guarded_takesNoCmd {i : Instr} {body : State → State} (hb : ∀ s, CrossesNoCmd s.ports (body s).ports) :
    TakesNoCmd (guarded i body) := by
  intro s t h
  obtain ⟨-, rfl⟩ | ⟨-, -, rfl⟩ | ⟨-, -, -, rfl⟩ | ⟨-, -, -, rfl⟩ := guarded_cases h
  · exact dropped_crosses s
  · exact raise_crosses _ s
  · exact raise_crosses _ s
  · exact hb s

theorem readRegister_crosses (num : Imm) (s : State) : CrossesNoCmd s.ports (readRegister num s).ports := by
  unfold readRegister
  cases s.register num.toNat with
  | some v => exact rsp_crosses _ _ s
  | none => exact ite_crosses (dropped_crosses s) (raise_crosses _ s)

theorem exec_takesNoCmd (i : Instr) : TakesNoCmd (exec i) := by
  cases i with
  | nop | setn | rsclr | setc1 | setc2 | setipb | setwarm | setmode | setxi | mix | warmup | reval | revalc =>
    exact guarded_takesNoCmd fun _ => rsp_crosses _ _ _
  | rspush | setdlen | lddig | rdcell =>
    exact guarded_takesNoCmd fun _ => ite_crosses (raise_crosses _ _) (rsp_crosses _ _ _)
  | srst => exact fun s t h => Host.Outcome.next.inj h ▸ rsp_crosses _ _ s.cleared
  | seed => exact guarded_takesNoCmd fun s => ite_crosses (rsp_crosses _ _ (s.withRegs _)) (raise_crosses _ s)
  | seedraw => exact guarded_takesNoCmd fun s => ite_crosses (run_crosses ((s.withRegs _).wait _)) (raise_crosses _ s)
  | genb => exact guarded_takesNoCmd fun s => (startByte_crosses _ s).trans (run_crosses _)
  | fill len => exact guarded_takesNoCmd fun s => (fillNext_crosses _ _ s).trans (run_crosses _)
  | xstream | xstreamx => exact guarded_takesNoCmd fun s => run_crosses (s.wait _)
  | rdreg num =>
    exact fun s t h => Host.Outcome.next.inj ((execRdreg_eq num s).symm.trans h) ▸ readRegister_crosses num s

/-! ## A step takes at most one command word -/

/-- How many command words the block takes if it proceeds and is not cut short: one, if none is in progress and one is
offered (R73). -/
def State.commandsDue (s : State) : Nat := if s.job = none ∧ s.ports.cmd ≠ [] then 1 else 0

theorem State.commandsDue_le_one (s : State) : s.commandsDue ≤ 1 := by
  unfold State.commandsDue
  split <;> omega

theorem State.commandsDue_of_takeCmd {s u : State} {w : Word} (hj : s.job = none) (hc : s.takeCmd = some (w, u)) :
    s.commandsDue = 1 := by
  obtain ⟨rest, hcmd, -⟩ := State.takeCmd_eq_some.1 hc
  exact if_pos ⟨hj, by simp [hcmd]⟩

/-- Proceeding is the crossing of some items, of which as many are command words as are due. -/
theorem proceed_crosses {s t : State} (h : proceed s = .next t) :
    ∃ xs : List Item, xs.countP Item.isCmd = s.commandsDue ∧ t.ports = xs.foldl Ports.cross s.ports := by
  have accepting {w : Word} {u : State} (hj : s.job = none) (hc : s.takeCmd = some (w, u))
      (hu : CrossesNoCmd u.ports t.ports) :
      ∃ xs : List Item, xs.countP Item.isCmd = s.commandsDue ∧ t.ports = xs.foldl Ports.cross s.ports := by
    obtain ⟨xs, hxs, ht⟩ := hu
    refine ⟨.cmd w :: xs, ?_, by rw [ht, State.takeCmd_ports hc, List.foldl_cons]⟩
    rw [State.commandsDue_of_takeCmd hj hc, List.countP_cons_of_pos rfl, hxs]
  obtain ⟨j, hj, rfl⟩ | ⟨-, hc, rfl⟩ | ⟨w, u, i, hj, hc, -, he⟩ | ⟨w, u, e, hj, hc, -, rfl⟩ := proceed_cases h
  · have hdue : s.commandsDue = 0 := if_neg fun ⟨hn, _⟩ => by simp [hj] at hn
    exact hdue ▸ run_crosses s
  · exact ⟨[], (if_neg fun ⟨_, hn⟩ => hn hc).symm, rfl⟩
  · exact accepting hj hc (exec_takesNoCmd i u t he)
  · exact accepting hj hc (illegalCommand_crosses u)

/-- An abandoned command has let the first `k` of its items cross. -/
theorem State.abandoned_cmd {s t : State} {xs : List Item} (h : t.ports = xs.foldl Ports.cross s.ports) (k : Nat) :
    (s.abandoned k t).ports.cmd = s.ports.cmd.drop ((xs.take k).countP Item.isCmd) := by
  have htrace : t.ports.trace = xs.reverse ++ s.ports.trace := h ▸ Ports.crossAll_trace xs s.ports
  have hcrossed : s.ports.crossedTo t.ports = xs := by rw [Ports.crossedTo_of_append htrace, List.reverse_reverse]
  rw [State.abandoned, hcrossed, Ports.crossAll_cmd]

/-- A step takes at most the words that are due; exactly those while `RST` is released, none while it is asserted. -/
theorem step_cmd {s t : State} (h : step s = .next t) :
    ∃ n ≤ s.commandsDue, t.ports.cmd = s.ports.cmd.drop n ∧ (s.ports.rst = .released → n = s.commandsDue) ∧
      (s.ports.rst = .asserted → n = 0) := by
  obtain ⟨hr, hp⟩ | ⟨hr, rfl⟩ | ⟨k, u, hr, hp, rfl⟩ := step_cases h
  case inl =>
    obtain ⟨xs, hxs, ht⟩ := proceed_crosses hp
    exact ⟨_, le_rfl, by rw [ht, Ports.crossAll_cmd, hxs], fun _ => rfl, by simp [hr]⟩
  case inr.inl => exact ⟨0, Nat.zero_le _, rfl, by simp [hr], fun _ => rfl⟩
  case inr.inr =>
    obtain ⟨xs, hxs, hu⟩ := proceed_crosses hp
    obtain ⟨-, ht⟩ | ⟨-, ht⟩ := s.resetWithin_cases k u
    · have hle : (xs.take k).countP Item.isCmd ≤ s.commandsDue := hxs ▸ (List.take_sublist k xs).countP_le
      exact ⟨_, hle, by rw [ht, State.abandoned_cmd hu], by simp [hr], by simp [hr]⟩
    · exact ⟨_, le_rfl, by rw [ht, State.withRst_ports_cmd, hu, Ports.crossAll_cmd, hxs], by simp [hr], by simp [hr]⟩

/-- Settles O9: the words a step takes are counted by the command words among the items that cross in it. -/
theorem oneCommandAtATime : Obligations.OneCommandAtATime := by
  intro s t h
  obtain ⟨n, hn, ht, hreleased, hasserted⟩ := step_cmd h
  have hle : n ≤ 1 := hn.trans s.commandsDue_le_one
  refine ⟨?atMostOne, ?none, ?one⟩
  case atMostOne =>
    obtain rfl | rfl : n = 0 ∨ n = 1 := by omega
    · exact .inl ht
    · exact .inr (ht.trans List.drop_one)
  case none =>
    intro hbusy
    suffices hzero : n = 0 by rw [ht, hzero, List.drop_zero]
    obtain hr | hidle : s.ports.rst = .asserted ∨ ¬ (s.job = none ∧ s.ports.cmd ≠ []) := by tauto
    · exact hasserted hr
    · exact Nat.le_zero.1 (hn.trans_eq (if_neg hidle))
  case one =>
    rintro ⟨hr, hjob, hcmd⟩
    have hone : n = 1 := (hreleased hr).trans (if_pos ⟨hjob, hcmd⟩)
    rw [ht, hone, List.drop_one]

end Sys2Proof.Machine
end

section
/-! PROOFS. The decoder, the encoder and the opcode map (spec/30_encoding.md R90 to R98). Each format is said once: when
it accepts a word, that its fields make up the word again, and which words the masks of its rows let through. The rows of
the decoder and of the opcode map then only name their format. -/

namespace Sys2Proof

/-! ## What a format accepts -/

theorem formatZ_eq_ok {w : Word} {i j : Instr} : formatZ w i = .ok j ↔ zeroFieldZ w = 0#24 ∧ i = j := by
  unfold formatZ; split <;> simp [*]

theorem formatI_eq_ok {w : Word} {f : Imm → Instr} {i : Instr} :
    formatI w f = .ok i ↔ selField w = 0#4 ∧ f (immField w) = i := by
  unfold formatI; split <;> simp [*]

theorem formatB_eq_ok {w : Word} {f : Byte → Byte → Instr} {i : Instr} :
    formatB w f = .ok i ↔ zeroFieldB w = 0#8 ∧ f (posField w) (lowByteField w) = i := by
  unfold formatB; split <;> simp [*]

theorem formatR_eq_ok {w : Word} {f : BitVec 3 → Byte → Instr} {i : Instr} :
    formatR w f = .ok i ↔ zeroFieldR w = 0#13 ∧ f (nbField w) (lowByteField w) = i := by
  unfold formatR; split <;> simp [*]

theorem checked_eq_ok {why : Illegal} {r : Except Illegal Instr} {i : Instr} :
    checked why r = .ok i ↔ r = .ok i ∧ i.wellFormed = true := by
  cases r with
  | error e => simp [checked]
  | ok j =>
    rw [checked]
    split
    · next hj => exact ⟨fun h => ⟨h, Except.ok.inj h ▸ hj⟩, And.left⟩
    · next hj => exact ⟨nofun, fun ⟨h, hi⟩ => absurd (Except.ok.inj h ▸ hi) hj⟩

/-! ## Decoding what was encoded -/

/-- The word of any command is decoded to that command, but for a check of its operands (R95). A command that R95 does
not restrict passes the check whatever its reason. -/
theorem decode_encode (i : Instr) : ∃ why, decode (encode i) = checked why (.ok i) := by
  cases i with
  | nop | srst | rsclr | seed | seedraw | mix | warmup | genb | xstream | xstreamx =>
    exact ⟨.mustBeZero, by simp [encode, decode, formatZ, checked, Instr.wellFormed]⟩
  | setn | setc1 | setc2 | setipb | setwarm | setdlen | fill | rdreg | rdcell =>
    exact ⟨.selNotZero, by simp [encode, decode, formatI, checked, Instr.wellFormed]⟩
  | lddig => exact ⟨.mustBeZero, by simp [encode, decode, formatB, checked, Instr.wellFormed]⟩
  | reval | revalc => exact ⟨.mustBeZero, by simp [encode, decode, formatR, checked, Instr.wellFormed]⟩
  | rspush => exact ⟨.ruleRange, by simp [encode, decode, formatI]⟩
  | setmode => exact ⟨.modeRange, by simp [encode, decode, formatI]⟩
  | setxi => exact ⟨.slotRange, by simp [encode, decode]⟩

/-- Settles O1: a well-formed command passes the check that its word is decoded with. -/
theorem decodeOfEncode : Obligations.DecodeOfEncode := by
  intro i hi
  obtain ⟨why, h⟩ := decode_encode i
  exact h.trans (checked_eq_ok.2 ⟨rfl, hi⟩)

/-! ## Encoding what was decoded -/

/-- The three fields of format I make up the whole word. -/
theorem wordI_fields (w : Word) : wordI (opField w) (selField w) (immField w) = w := by
  have h : selField w ++ immField w = w.extractLsb' 0 24 := BitVec.extractLsb'_append_extractLsb'_eq_extractLsb' rfl
  rw [wordI, h]
  exact BitVec.extractLsb'_append_extractLsb'

theorem wordZ_fields {w : Word} (h : zeroFieldZ w = 0#24) : wordZ (opField w) = w := by
  rw [wordZ, ← h]
  exact BitVec.extractLsb'_append_extractLsb'

theorem wordB_fields {w : Word} (h : zeroFieldB w = 0#8) : wordB (opField w) (posField w) (lowByteField w) = w := by
  have hlow : posField w ++ lowByteField w = w.extractLsb' 0 16 :=
    BitVec.extractLsb'_append_extractLsb'_eq_extractLsb' rfl
  have hrest : zeroFieldB w ++ w.extractLsb' 0 16 = w.extractLsb' 0 24 :=
    BitVec.extractLsb'_append_extractLsb'_eq_extractLsb' rfl
  rw [wordB, ← h, hlow, hrest]
  exact BitVec.extractLsb'_append_extractLsb'

theorem wordR_fields {w : Word} (h : zeroFieldR w = 0#13) : wordR (opField w) (nbField w) (lowByteField w) = w := by
  have hlow : nbField w ++ lowByteField w = w.extractLsb' 0 11 :=
    BitVec.extractLsb'_append_extractLsb'_eq_extractLsb' rfl
  have hrest : zeroFieldR w ++ w.extractLsb' 0 11 = w.extractLsb' 0 24 :=
    BitVec.extractLsb'_append_extractLsb'_eq_extractLsb' rfl
  rw [wordR, ← h, hlow, hrest]
  exact BitVec.extractLsb'_append_extractLsb'

section
variable {w : Word} {op : Byte} {i : Instr}

theorem encode_of_formatZ {j : Instr} (hop : opField w = op) (hj : encode j = wordZ op) (h : formatZ w j = .ok i) :
    encode i = w := by
  obtain ⟨hzero, rfl⟩ := formatZ_eq_ok.1 h
  rw [hj, ← hop, wordZ_fields hzero]

theorem encode_of_formatI {f : Imm → Instr} (hop : opField w = op) (hf : ∀ v, encode (f v) = wordI op 0#4 v)
    (h : formatI w f = .ok i) : encode i = w := by
  obtain ⟨hsel, rfl⟩ := formatI_eq_ok.1 h
  rw [hf, ← hop, ← hsel, wordI_fields]

theorem encode_of_formatB {f : Byte → Byte → Instr} (hop : opField w = op)
    (hf : ∀ p v, encode (f p v) = wordB op p v) (h : formatB w f = .ok i) : encode i = w := by
  obtain ⟨hzero, rfl⟩ := formatB_eq_ok.1 h
  rw [hf, ← hop, wordB_fields hzero]

theorem encode_of_formatR {f : BitVec 3 → Byte → Instr} (hop : opField w = op)
    (hf : ∀ nb v, encode (f nb v) = wordR op nb v) (h : formatR w f = .ok i) : encode i = w := by
  obtain ⟨hzero, rfl⟩ := formatR_eq_ok.1 h
  rw [hf, ← hop, wordR_fields hzero]

end

/-- Row by row: the encoder writes the row's opcode and the fields its format has read. -/
theorem encode_of_decode {w : Word} {i : Instr} (h : decode w = .ok i) : encode i = w := by
  unfold decode at h
  split at h
  case h_1 hop | h_2 hop | h_4 hop | h_14 hop | h_15 hop | h_16 hop | h_17 hop | h_18 hop | h_20 hop | h_21 hop =>
    exact encode_of_formatZ hop rfl h
  case h_3 hop | h_6 hop | h_7 hop | h_8 hop | h_9 hop | h_12 hop | h_19 hop | h_24 hop | h_25 hop =>
    exact encode_of_formatI hop (fun _ => rfl) h
  case h_5 hop | h_10 hop => exact encode_of_formatI hop (fun _ => rfl) (checked_eq_ok.1 h).1
  case h_11 hop =>
    obtain ⟨rfl⟩ := (checked_eq_ok.1 h).1
    rw [encode, ← hop, wordI_fields]
  case h_13 hop => exact encode_of_formatB hop (fun _ _ => rfl) h
  case h_22 hop | h_23 hop => exact encode_of_formatR hop (fun _ _ => rfl) h
  case h_26 => cases h

/-- Settles O2: the decoder checks what it yields, and no field of the word is lost. -/
theorem encodeOfDecode : Obligations.EncodeOfDecode :=
  fun w i h => ⟨decode_yieldsWellFormed w i h, encode_of_decode h⟩

/-! ## The fields of a word as numbers -/

theorem opField_toNat (w : Word) : (opField w).toNat = w.toNat / 16777216 := by
  rw [opField, BitVec.extractLsb'_toNat, Nat.shiftRight_eq_div_pow]; omega

theorem selField_toNat (w : Word) : (selField w).toNat = w.toNat / 1048576 % 16 := by
  rw [selField, BitVec.extractLsb'_toNat, Nat.shiftRight_eq_div_pow]

theorem immField_toNat (w : Word) : (immField w).toNat = w.toNat % 1048576 := by
  rw [immField, BitVec.extractLsb'_toNat, Nat.shiftRight_zero]

theorem zeroFieldZ_toNat (w : Word) : (zeroFieldZ w).toNat = w.toNat % 16777216 := by
  rw [zeroFieldZ, BitVec.extractLsb'_toNat, Nat.shiftRight_zero]

theorem zeroFieldB_toNat (w : Word) : (zeroFieldB w).toNat = w.toNat / 65536 % 256 := by
  rw [zeroFieldB, BitVec.extractLsb'_toNat, Nat.shiftRight_eq_div_pow]

theorem zeroFieldR_toNat (w : Word) : (zeroFieldR w).toNat = w.toNat / 2048 % 8192 := by
  rw [zeroFieldR, BitVec.extractLsb'_toNat, Nat.shiftRight_eq_div_pow]

theorem opField_eq_iff {w p : Word} : opField w = opField p ↔ w.toNat / 16777216 = p.toNat / 16777216 := by
  rw [← BitVec.toNat_inj, opField_toNat, opField_toNat]

theorem zeroFieldZ_eq_zero_iff {w : Word} : zeroFieldZ w = 0#24 ↔ w.toNat % 16777216 = 0 := by
  rw [← BitVec.toNat_inj, zeroFieldZ_toNat]; rfl

theorem selField_eq_zero_iff {w : Word} : selField w = 0#4 ↔ w.toNat / 1048576 % 16 = 0 := by
  rw [← BitVec.toNat_inj, selField_toNat]; rfl

theorem zeroFieldB_eq_zero_iff {w : Word} : zeroFieldB w = 0#8 ↔ w.toNat / 65536 % 256 = 0 := by
  rw [← BitVec.toNat_inj, zeroFieldB_toNat]; rfl

theorem zeroFieldR_eq_zero_iff {w : Word} : zeroFieldR w = 0#13 ↔ w.toNat / 2048 % 8192 = 0 := by
  rw [← BitVec.toNat_inj, zeroFieldR_toNat]; rfl

/-! ## The rows of the opcode map (R96) -/

/-- A mask of ones above `n` zeros rounds down to a multiple of `2 ^ n`. -/
theorem and_mask_toNat (w : Word) (n : Nat) : (w &&& BitVec.allOnes 32 <<< n).toNat = w.toNat / 2 ^ n * 2 ^ n := by
  rw [← BitVec.shiftLeft_ushiftRight, BitVec.toNat_shiftLeft, BitVec.toNat_ushiftRight, Nat.shiftRight_eq_div_pow,
    Nat.shiftLeft_eq]
  exact Nat.mod_eq_of_lt (by have := Nat.div_mul_le_self w.toNat (2 ^ n); omega)

/-- To match under such a mask is to round down to the pattern. -/
theorem and_mask_eq_iff {w p : Word} (n : Nat) :
    w &&& BitVec.allOnes 32 <<< n = p ↔ w.toNat / 2 ^ n * 2 ^ n = p.toNat := by
  rw [← BitVec.toNat_inj, and_mask_toNat]

/-! The pattern of a row holds the opcode alone. A word matches it if it has that opcode and the fields under the rest of
the mask are 0, or within the bound that R95 sets. -/

section
variable {w p : Word} (hp : zeroFieldZ p = 0#24)
include hp

theorem matches_formatZ : w &&& 0xFFFFFFFF#32 = p ↔ opField w = opField p ∧ zeroFieldZ w = 0#24 := by
  rw [zeroFieldZ_eq_zero_iff] at hp
  rw [opField_eq_iff, zeroFieldZ_eq_zero_iff]
  refine (and_mask_eq_iff 0).trans ?_
  omega

theorem matches_formatI : w &&& 0xFFF00000#32 = p ↔ opField w = opField p ∧ selField w = 0#4 := by
  rw [zeroFieldZ_eq_zero_iff] at hp
  rw [opField_eq_iff, selField_eq_zero_iff]
  refine (and_mask_eq_iff 20).trans ?_
  omega

theorem matches_rspush :
    w &&& 0xFFFFFF00#32 = p ↔ opField w = opField p ∧ selField w = 0#4 ∧ (immField w).toNat ≤ 255 := by
  rw [zeroFieldZ_eq_zero_iff] at hp
  rw [opField_eq_iff, selField_eq_zero_iff, immField_toNat]
  refine (and_mask_eq_iff 8).trans ?_
  omega

theorem matches_setmode :
    w &&& 0xFFFFFFFC#32 = p ↔ opField w = opField p ∧ selField w = 0#4 ∧ (immField w).toNat ≤ 3 := by
  rw [zeroFieldZ_eq_zero_iff] at hp
  rw [opField_eq_iff, selField_eq_zero_iff, immField_toNat]
  refine (and_mask_eq_iff 2).trans ?_
  omega

theorem matches_setxi : w &&& 0xFF800000#32 = p ↔ opField w = opField p ∧ (selField w).toNat ≤ 7 := by
  rw [zeroFieldZ_eq_zero_iff] at hp
  rw [opField_eq_iff, selField_toNat]
  refine (and_mask_eq_iff 23).trans ?_
  omega

theorem matches_formatB : w &&& 0xFFFF0000#32 = p ↔ opField w = opField p ∧ zeroFieldB w = 0#8 := by
  rw [zeroFieldZ_eq_zero_iff] at hp
  rw [opField_eq_iff, zeroFieldB_eq_zero_iff]
  refine (and_mask_eq_iff 16).trans ?_
  omega

theorem matches_formatR : w &&& 0xFFFFF800#32 = p ↔ opField w = opField p ∧ zeroFieldR w = 0#13 := by
  rw [zeroFieldZ_eq_zero_iff] at hp
  rw [opField_eq_iff, zeroFieldR_eq_zero_iff]
  refine (and_mask_eq_iff 11).trans ?_
  omega

end

/-- The word matches the row exactly if it has the row's opcode and decodes. -/
def RowDecodes (row : OpcodeRow) (w : Word) : Prop :=
  w &&& row.mask = row.pattern ↔ opField w = opField row.pattern ∧ ∃ i, decode w = .ok i

section
variable {w p : Word} {m : String}

/-- Where the decoder answers `r` at the row's opcode, the row's mask has to say when `r` is a command. -/
theorem rowDecodes_of {row : OpcodeRow} {c : Prop} {r : Except Illegal Instr}
    (hm : w &&& row.mask = row.pattern ↔ opField w = opField row.pattern ∧ c)
    (hd : opField w = opField row.pattern → decode w = r) (hr : (∃ i, r = .ok i) ↔ c) : RowDecodes row w :=
  hm.trans (and_congr_right fun hop => by rw [hd hop, hr])

theorem rowDecodes_formatZ {j : Instr} (hp : zeroFieldZ p = 0#24)
    (hd : opField w = opField p → decode w = formatZ w j) : RowDecodes ⟨m, 0xFFFFFFFF#32, p⟩ w :=
  rowDecodes_of (matches_formatZ hp) hd (by simp [formatZ_eq_ok])

theorem rowDecodes_formatI {f : Imm → Instr} (hp : zeroFieldZ p = 0#24)
    (hd : opField w = opField p → decode w = formatI w f) : RowDecodes ⟨m, 0xFFF00000#32, p⟩ w :=
  rowDecodes_of (matches_formatI hp) hd (by simp [formatI_eq_ok])

theorem rowDecodes_formatR {f : BitVec 3 → Byte → Instr} (hp : zeroFieldZ p = 0#24)
    (hd : opField w = opField p → decode w = formatR w f) : RowDecodes ⟨m, 0xFFFFF800#32, p⟩ w :=
  rowDecodes_of (matches_formatR hp) hd (by simp [formatR_eq_ok])

end

/-- Row by row: the opcode selects the format, and the rest of the mask covers what the format checks. -/
theorem row_decodes {row : OpcodeRow} (h : row ∈ opcodeRows) (w : Word) : RowDecodes row w := by
  simp only [opcodeRows, List.cons_append, List.nil_append, List.mem_cons, List.not_mem_nil, or_false] at h
  obtain rfl | rfl | rfl | rfl | rfl | rfl | rfl | rfl | rfl | rfl | rfl | rfl | rfl | rfl | rfl | rfl | rfl | rfl |
    rfl | rfl | rfl | rfl | rfl | rfl | rfl := h
  -- The rows of format Z, of format I with any immediate, and of format R; then the three rows of R95 and `LDDIG`.
  any_goals exact rowDecodes_formatZ rfl fun hop => by rw [decode, hop]; rfl
  any_goals exact rowDecodes_formatI rfl fun hop => by rw [decode, hop]; rfl
  any_goals exact rowDecodes_formatR rfl fun hop => by rw [decode, hop]; rfl
  · exact rowDecodes_of (r := checked .ruleRange (formatI w .rspush)) (matches_rspush rfl)
      (fun hop => by rw [decode, hop]; rfl) (by simp [checked_eq_ok, formatI_eq_ok, Instr.wellFormed])
  · exact rowDecodes_of (r := checked .modeRange (formatI w .setmode)) (matches_setmode rfl)
      (fun hop => by rw [decode, hop]; rfl) (by simp [checked_eq_ok, formatI_eq_ok, Instr.wellFormed])
  · exact rowDecodes_of (r := checked .slotRange (.ok (.setxi (selField w) (immField w)))) (matches_setxi rfl)
      (fun hop => by rw [decode, hop]; rfl) (by simp [checked_eq_ok, Instr.wellFormed])
  · exact rowDecodes_of (r := formatB w .lddig) (matches_formatB rfl)
      (fun hop => by rw [decode, hop]; rfl) (by simp [formatB_eq_ok])

/-! ## A row is known by its opcode, and by its mnemonic -/

theorem row_eq_of_opField {row row' : OpcodeRow} (h : row ∈ opcodeRows) (h' : row' ∈ opcodeRows)
    (hop : opField row.pattern = opField row'.pattern) : row = row' :=
  List.inj_on_of_nodup_map (f := fun r : OpcodeRow => opField r.pattern) (by decide) h h' hop

theorem row_eq_of_mnemonic {row row' : OpcodeRow} (h : row ∈ opcodeRows) (h' : row' ∈ opcodeRows)
    (hm : row.mnemonic = row'.mnemonic) : row = row' :=
  List.inj_on_of_nodup_map (f := OpcodeRow.mnemonic) (by decide) h h' hm

/-- Every command has a row, which gives its mnemonic and the opcode of its word. -/
theorem encode_opcode (i : Instr) : Laws.EncodeOpcode.Statement i := by
  cases i with
  | nop => exact Laws.EncodeOpcode.nop
  | srst => exact Laws.EncodeOpcode.srst
  | setn n => exact Laws.EncodeOpcode.setn n
  | rsclr => exact Laws.EncodeOpcode.rsclr
  | rspush imm => exact Laws.EncodeOpcode.rspush imm
  | setc1 v => exact Laws.EncodeOpcode.setc1 v
  | setc2 v => exact Laws.EncodeOpcode.setc2 v
  | setipb v => exact Laws.EncodeOpcode.setipb v
  | setwarm v => exact Laws.EncodeOpcode.setwarm v
  | setmode imm => exact Laws.EncodeOpcode.setmode imm
  | setxi sel idx => exact Laws.EncodeOpcode.setxi sel idx
  | setdlen v => exact Laws.EncodeOpcode.setdlen v
  | lddig pos val => exact Laws.EncodeOpcode.lddig pos val
  | seed => exact Laws.EncodeOpcode.seed
  | seedraw => exact Laws.EncodeOpcode.seedraw
  | mix => exact Laws.EncodeOpcode.mix
  | warmup => exact Laws.EncodeOpcode.warmup
  | genb => exact Laws.EncodeOpcode.genb
  | fill len => exact Laws.EncodeOpcode.fill len
  | xstream => exact Laws.EncodeOpcode.xstream
  | xstreamx => exact Laws.EncodeOpcode.xstreamx
  | reval nb rule => exact Laws.EncodeOpcode.reval nb rule
  | revalc nb rule => exact Laws.EncodeOpcode.revalc nb rule
  | rdreg num => exact Laws.EncodeOpcode.rdreg num
  | rdcell idx => exact Laws.EncodeOpcode.rdcell idx

theorem mnemonic_eq_iff (i : Instr) {row : OpcodeRow} (h : row ∈ opcodeRows) :
    i.mnemonic = row.mnemonic ↔ opField (encode i) = opField row.pattern := by
  obtain ⟨row', h', hm, hop⟩ := encode_opcode i
  rw [← hm, hop]
  exact ⟨fun he => row_eq_of_mnemonic h' h he ▸ rfl, fun he => row_eq_of_opField h' h he ▸ rfl⟩

/-- Settles O3: both sides say that the word decodes and has the row's opcode. -/
theorem decodeFollowsOpcodeMap : Obligations.DecodeFollowsOpcodeMap := by
  intro row h w
  refine Iff.trans ?_ (Iff.symm (row_decodes h w))
  constructor
  · rintro ⟨i, hi, hm⟩
    exact ⟨encode_of_decode hi ▸ (mnemonic_eq_iff i h).1 hm, i, hi⟩
  · rintro ⟨hop, i, hi⟩
    exact ⟨i, hi, (mnemonic_eq_iff i h).2 (encode_of_decode hi ▸ hop)⟩

/-! ## At most one row matches (R97) -/

theorem row_eq_of_matches {row row' : OpcodeRow} (h : row ∈ opcodeRows) (h' : row' ∈ opcodeRows) {w : Word}
    (hw : w &&& row.mask = row.pattern) (hw' : w &&& row'.mask = row'.pattern) : row = row' :=
  row_eq_of_opField h h' (((row_decodes h w).1 hw).1.symm.trans ((row_decodes h' w).1 hw').1)

theorem decodes_iff_matches (w : Word) :
    (∃ i, decode w = .ok i) ↔ ∃ row ∈ opcodeRows, w &&& row.mask = row.pattern := by
  constructor
  · rintro ⟨i, hi⟩
    obtain ⟨row, h, -, hop⟩ := encode_opcode i
    exact ⟨row, h, (row_decodes h w).2 ⟨encode_of_decode hi ▸ hop, i, hi⟩⟩
  · rintro ⟨row, h, hw⟩
    exact ((row_decodes h w).1 hw).2

/-- Where at most one element of a list passes a test, a search finds the same element in any order of the list. -/
theorem find?_eq_of_perm {α : Type} {p : α → Bool} {l l' : List α} (hp : l'.Perm l)
    (h : (l.filter p).length ≤ 1) : l'.find? p = l.find? p := by
  have hf : l'.filter p = l.filter p := by
    obtain h0 | h1 : (l.filter p).length = 0 ∨ (l.filter p).length = 1 := by omega
    · have hnil := List.eq_nil_of_length_eq_zero h0
      rw [hnil]
      exact (hnil ▸ hp.filter p).eq_nil
    · obtain ⟨a, ha⟩ := List.length_eq_one_iff.1 h1
      rw [ha]
      exact List.perm_singleton.1 (ha ▸ hp.filter p)
  rw [← List.head?_filter, hf, List.head?_filter]

theorem matching_rows_length (w : Word) :
    (opcodeRows.filter fun row => w &&& row.mask = row.pattern).length ≤ 1 := by
  have hnodup : (opcodeRows.filter fun row => w &&& row.mask = row.pattern).Nodup := List.Nodup.filter _ (by decide)
  rw [← List.toFinset_card_of_nodup hnodup, Finset.card_le_one]
  intro row h row' h'
  obtain ⟨h, hw⟩ := List.mem_filter.1 (List.mem_toFinset.1 h)
  obtain ⟨h', hw'⟩ := List.mem_filter.1 (List.mem_toFinset.1 h')
  exact row_eq_of_matches h h' (of_decide_eq_true hw) (of_decide_eq_true hw')

/-- Settles O4: two rows that match a word have its opcode, and so are the same row. -/
theorem wordMatchesAtMostOneRow : Obligations.WordMatchesAtMostOneRow :=
  fun w => ⟨matching_rows_length w, decodes_iff_matches w, fun _ hp => find?_eq_of_perm hp (matching_rows_length w)⟩

/-! ## Illegal commands (R98) -/

theorem error_iff_not_ok (r : Except Illegal Instr) : (∃ e, r = .error e) ↔ ¬ ∃ i, r = .ok i := by
  cases r <;> simp

/-- Settles O5: at each assigned opcode only the case of its format is left, and there it is what the format refuses. -/
theorem illegalCommandsAreTheListedCases : Obligations.IllegalCommandsAreTheListedCases := by
  refine ⟨by decide +kernel, fun w => ?_⟩
  rw [error_iff_not_ok]
  unfold decode
  split
  case h_1 hop | h_2 hop | h_4 hop | h_14 hop | h_15 hop | h_16 hop | h_17 hop | h_18 hop | h_20 hop | h_21 hop =>
    simp [hop, formatZ_eq_ok, zeroFieldZ]
  case h_3 hop | h_6 hop | h_7 hop | h_8 hop | h_9 hop | h_12 hop | h_19 hop | h_24 hop | h_25 hop =>
    simp [hop, formatI_eq_ok, selField]
  case h_5 hop | h_10 hop =>
    simp [hop, checked_eq_ok, formatI_eq_ok, Instr.wellFormed, selField, immField, imp_iff_or_not]
  case h_11 hop => simp [hop, checked_eq_ok, Instr.wellFormed, selField]
  case h_13 hop => simp [hop, formatB_eq_ok, zeroFieldB]
  case h_22 hop | h_23 hop => simp [hop, formatR_eq_ok, zeroFieldR]
  case h_26 =>
    refine iff_of_true nofun (.inl fun hop => ?_)
    simp only [List.mem_append, List.mem_cons, List.not_mem_nil, or_false] at hop
    tauto

end Sys2Proof
end

section
/-! PROOFS. How a command ends (spec/30_encoding.md R99, R101, R108; spec/60_exceptions.md R241, R242, R250). With
`ERR = 0` every piece of a command between two waits comes to a wait, with no response so far, or to its one response
(`Acts`). All commands but `SRST` and `RDREG` are such a body behind the checks of R251 (`exec_shape`), and a step is a
command or the rest of one. -/

namespace Sys2Proof.Machine

/-! ## An illegal word (R99) -/

/-- With `RST` released and nothing in progress, a step at a word that is no command is the illegal command. -/
theorem step_of_decode_error {s : State} {w : Word} {rest : List Word} {e : Illegal} (hr : s.ports.rst = .released)
    (hj : s.job = none) (hc : s.ports.cmd = w :: rest) (hd : decode w = .error e) :
    step s = .next (s.accepted w rest).illegalCommand := by
  simp only [step, hr, proceed, hj, State.takeCmd_of_cons hc, hd]

/-- Settles O8: both ends of an illegal command are the answers that the statement writes out. -/
theorem illegalWordFaultsOrIsDropped : Obligations.IllegalWordFaultsOrIsDropped := by
  intro s w rest e hr hj hc hd
  rw [step_of_decode_error hr hj hc hd]
  exact ⟨fun hp => congrArg _ (if_neg hp), fun hp => congrArg _ (if_pos hp)⟩

/-! ## The record of a command that has not responded yet -/

/-- No response is among the items. -/
def NoRsp (xs : List Item) : Prop := ∀ w, .rsp w ∉ xs

theorem NoRsp.nil : NoRsp [] := nofun

theorem NoRsp.cons {x : Item} {xs : List Item} (hx : ∀ w, x ≠ .rsp w) (h : NoRsp xs) : NoRsp (x :: xs) :=
  fun w hw => (List.mem_cons.1 hw).elim (fun he => hx w he.symm) (h w)

theorem NoRsp.append {xs ys : List Item} (hx : NoRsp xs) (hy : NoRsp ys) : NoRsp (xs ++ ys) :=
  fun w hw => (List.mem_append.1 hw).elim (hx w) (hy w)

/-- Since the record was `p`, no response has crossed; nor has the command faulted. -/
structure Silent (p : List Item) (s : State) : Prop where
  err : s.regs.err = .none
  trace : ∃ mid, s.ports.trace = mid ++ p ∧ NoRsp mid

/-- The command has ended: since the record was `p` one response has crossed, as the last item, with `ERR` on top. -/
structure Answers (p : List Item) (s : State) : Prop where
  job : s.job = none
  trace : ∃ (payload : BitVec 24) (mid : List Item),
    s.ports.trace = .rsp (s.regs.err.code ++ payload) :: mid ++ p ∧ NoRsp mid

/-- What a command comes to that the phase table allows: it waits, or it has ended with an `ERR` other than
`E_PHASE`. -/
def Acts (p : List Item) (s : State) : Prop :=
  (s.job ≠ none ∧ Silent p s) ∨ (Answers p s ∧ s.regs.err ≠ .phase)

section
variable {p : List Item} {s : State}

theorem Silent.refl (h : s.regs.err = .none) : Silent s.ports.trace s := ⟨h, [], rfl, .nil⟩

theorem Silent.withRegs (h : Silent p s) {r : Regs} (hr : r.err = s.regs.err) : Silent p (s.withRegs r) :=
  ⟨hr.trans h.err, h.trace⟩

/-- An item that is no response has been taken. -/
theorem Silent.crossed (h : Silent p s) {t : State} {x : Item} (hr : t.regs = s.regs) (ht : t.ports = s.ports.cross x)
    (hx : ∀ w, x ≠ .rsp w) : Silent p t := by
  obtain ⟨mid, hmid, hno⟩ := h.trace
  exact ⟨hr ▸ h.err, x :: mid, by rw [ht, Ports.cross_trace, hmid, List.cons_append], hno.cons hx⟩

theorem Silent.emit (h : Silent p s) {x : Item} (hx : ∀ w, x ≠ .rsp w) : Silent p (s.emit x) := by
  obtain ⟨mid, hmid, hno⟩ := h.trace
  exact ⟨h.err, x :: mid, congrArg (x :: ·) hmid, hno.cons hx⟩

theorem Silent.wait (h : Silent p s) (j : Job) : Acts p (s.wait j) := .inl ⟨nofun, h.err, h.trace⟩

/-- A response under the `ERR` that has just been written. -/
theorem Silent.answers (h : Silent p s) {r : Regs} {e : Err} (he : r.err = e) (v : Nat) :
    Answers p ((s.withRegs r).rsp e v) := by
  obtain ⟨mid, hmid, hno⟩ := h.trace
  exact ⟨rfl, BitVec.ofNat 24 v, mid, by rw [← he]; simp [hmid, respWord], hno⟩

theorem Silent.rsp (h : Silent p s) (v : Nat) : Acts p (s.rsp .none v) :=
  .inr ⟨h.answers (r := s.regs) h.err v, by simp [h.err]⟩

theorem Silent.withRegs_rsp (h : Silent p s) {r : Regs} {v : Nat} (hr : r.err = s.regs.err) :
    Acts p ((s.withRegs r).rsp .none v) := (h.withRegs hr).rsp v

theorem Silent.withRegs_wait (h : Silent p s) {r : Regs} {j : Job} (hr : r.err = s.regs.err) :
    Acts p ((s.withRegs r).wait j) := (h.withRegs hr).wait j

theorem Silent.raise (h : Silent p s) {c : Err} (hc : c ≠ .phase) : Acts p (s.raise c) :=
  .inr ⟨h.answers rfl 0, hc⟩

theorem Silent.ask (h : Silent p s) (k : DrawKind) (q : DrawPoint) (u : ByteUse) : Acts p (s.ask k q u) :=
  (h.emit (x := .drq k) nofun).wait _

/-- Two operations that both come to a wait or a response may be chosen between. -/
theorem Acts.ite {c : Prop} [Decidable c] {t : State} (hs : Acts p s) (ht : Acts p t) :
    Acts p (if c then s else t) := by
  split
  · exact hs
  · exact ht

/-! ## The pieces of a command between two waits -/

theorem Silent.evolved (h : Silent p s) : Silent p s.evolved := h.withRegs (evolveTimes_err _ _)

theorem Silent.produced (h : Silent p s) : Silent p s.produced := h.withRegs (afterByte_err _)

theorem seedRawSymbol_acts (h : Silent p s) (cnt : Nat) (d : Symbol) : Acts p (seedRawSymbol cnt d s) := by
  cases d with
  | ioErr => exact h.raise nofun
  | endFrame => exact .ite (h.raise nofun) (h.withRegs_rsp rfl)
  | data v => exact .ite (h.withRegs_wait rfl) (h.wait _)

theorem streamOffer_acts (h : Silent p s) (src : KeySource) (cnt : Nat) (last : Bool) (bytes : List Byte) :
    Acts p (streamOffer src cnt last bytes s) := by
  cases bytes with
  | cons v rest => exact h.wait _
  | nil => exact .ite (h.rsp cnt) (h.wait _)

theorem keyBytes_acts (h : Silent p s) (cnt : Nat) (last : Bool) (ib : List Byte) (left : Nat) (kb : List Byte) :
    Acts p (keyBytes cnt last ib left kb s) := by
  induction left generalizing kb s with
  | zero => exact streamOffer_acts h _ _ _ _
  | succ left ih => exact .ite (h.evolved.ask _ _ _) (ih h.evolved.produced _)

theorem finishByte_acts (h : Silent p s) (u : ByteUse) : Acts p (finishByte u s) := by
  cases u with
  | genb => exact h.produced.rsp _
  | fill left cnt => exact h.produced.wait _
  | key left cnt last ib kb => exact keyBytes_acts h.produced _ _ _ _ _

theorem startByte_acts (h : Silent p s) (u : ByteUse) : Acts p (startByte u s) :=
  .ite (h.evolved.ask _ _ _) (finishByte_acts h.evolved u)

theorem nextTrial_acts (h : Silent p s) (u : ByteUse) (left : Nat) : Acts p (nextTrial u left s) := by
  cases left with
  | zero => exact finishByte_acts h u
  | succ left => exact h.ask _ _ _

theorem drawAnswer_acts (h : Silent p s) (q : DrawPoint) (u : ByteUse) (d : Word) : Acts p (drawAnswer q u d s) := by
  cases q with
  | gate2 => exact .ite (h.ask _ _ _) (finishByte_acts h u)
  | gate1 => exact .ite (h.ask _ _ _) (nextTrial_acts h u _)
  | flip => exact nextTrial_acts (h.withRegs (flipCell_err d _)) u _
  | trial left => exact nextTrial_acts (h.withRegs (trialCell_err d _)) u left

theorem fillNext_acts (h : Silent p s) (left cnt : Nat) : Acts p (fillNext left cnt s) := by
  cases left with
  | zero => exact h.rsp cnt
  | succ left => exact startByte_acts h _

theorem fillAnswer_acts (h : Silent p s) (left cnt : Nat) (a : Answer) : Acts p (fillAnswer left cnt a s) := by
  cases a with
  | ok => exact fillNext_acts h _ _
  | ioerr => exact h.raise nofun

theorem keyFill_acts (h : Silent p s) (src : KeySource) (cnt : Nat) (last : Bool) (ib : List Byte) :
    Acts p (keyFill src cnt last ib s) := by
  cases src with
  | int => exact keyBytes_acts h _ _ _ _ _
  | ext => exact (h.emit (x := .krq _) nofun).wait _

theorem readSymbol_acts (h : Silent p s) (src : KeySource) (cnt : Nat) (ib : List Byte) (d : Symbol) :
    Acts p (readSymbol src cnt ib d s) := by
  cases d with
  | ioErr => exact h.raise nofun
  | endFrame => exact .ite (h.rsp cnt) (keyFill_acts h _ _ _ _)
  | data v => exact .ite (h.wait _) (keyFill_acts h _ _ _ _)

theorem keyByte_acts (h : Silent p s) (cnt : Nat) (last : Bool) (ib kb : List Byte) (v : Byte) :
    Acts p (keyByte cnt last ib kb v s) := .ite (h.wait _) (streamOffer_acts h _ _ _ _)

theorem Silent.progress (h : Silent p s) (cnt : Nat) : Silent p (progress cnt s) := by
  unfold Machine.progress
  split
  · exact h.emit nofun
  · exact h

theorem writeAnswer_acts (h : Silent p s) (src : KeySource) (cnt : Nat) (last : Bool) (rest : List Byte)
    (a : Answer) : Acts p (writeAnswer src cnt last rest a s) := by
  cases a with
  | ok => exact streamOffer_acts (h.progress _) _ _ _ _
  | ioerr => exact h.raise nofun

/-! ## Advances and runs -/

theorem State.takeDin_regs {t : State} {d : Symbol} (h : s.takeDin = some (d, t)) : t.regs = s.regs := by
  obtain ⟨rest, -, rfl⟩ := State.takeDin_eq_some.1 h
  rfl

theorem State.takeAnswer_regs {v : Byte} {t : State} {a : Answer} (h : s.takeAnswer v = some (a, t)) :
    t.regs = s.regs := by
  obtain ⟨rest, -, rfl⟩ := State.takeAnswer_eq_some.1 h
  rfl

theorem State.takeKey_regs {t : State} {v : Byte} (h : s.takeKey = some (v, t)) : t.regs = s.regs := by
  obtain ⟨rest, -, rfl⟩ := State.takeKey_eq_some.1 h
  rfl

theorem State.takeDraw_regs {t : State} {d : Word} (h : s.takeDraw = some (d, t)) : t.regs = s.regs := by
  obtain ⟨rest, -, rfl⟩ := State.takeDraw_eq_some.1 h
  rfl

theorem advance_acts {j : Job} {t : State} (h : Silent p s) (ha : advance j s = some t) : Acts p t := by
  cases j with
  | seedRaw cnt =>
    obtain ⟨⟨d, u⟩, hd, rfl⟩ := Option.map_eq_some_iff.1 ha
    exact seedRawSymbol_acts (h.crossed (State.takeDin_regs hd) (State.takeDin_ports hd) nofun) _ _
  | draw q use =>
    obtain ⟨⟨d, u⟩, hd, rfl⟩ := Option.map_eq_some_iff.1 ha
    exact drawAnswer_acts (h.crossed (State.takeDraw_regs hd) (State.takeDraw_ports hd) nofun) _ _ _
  | fillOut left cnt v =>
    obtain ⟨⟨a, u⟩, hd, rfl⟩ := Option.map_eq_some_iff.1 ha
    exact fillAnswer_acts (h.crossed (State.takeAnswer_regs hd) (State.takeAnswer_ports hd) nofun) _ _ _
  | read src cnt ib =>
    obtain ⟨⟨d, u⟩, hd, rfl⟩ := Option.map_eq_some_iff.1 ha
    exact readSymbol_acts (h.crossed (State.takeDin_regs hd) (State.takeDin_ports hd) nofun) _ _ _ _
  | keyIn cnt last ib kb =>
    obtain ⟨⟨v, u⟩, hd, rfl⟩ := Option.map_eq_some_iff.1 ha
    exact keyByte_acts (h.crossed (State.takeKey_regs hd) (State.takeKey_ports hd) nofun) _ _ _ _ _
  | write src cnt last v rest =>
    obtain ⟨⟨a, u⟩, hd, rfl⟩ := Option.map_eq_some_iff.1 ha
    exact writeAnswer_acts (h.crossed (State.takeAnswer_regs hd) (State.takeAnswer_ports hd) nofun) _ _ _ _ _

/-- A run keeps what a command comes to: only one that still waits is run. -/
theorem Acts.run (h : Acts p s) : Acts p s.run :=
  State.run_keeps (Acts p)
    (fun ht hj ha => by
      obtain ⟨-, hsilent⟩ | ⟨hend, -⟩ := ht
      · exact advance_acts hsilent ha
      · exact absurd (hj.symm.trans hend.job) nofun) h

end

/-! ## Commands -/

/-- The command is a body behind the checks of R251, and with `ERR = 0` the body comes to a wait or a response. -/
def GuardsActing (i : Instr) (e : State → Host.Outcome State Fault Refusal) : Prop :=
  ∃ body, e = guarded i body ∧ ∀ s, Silent s.ports.trace s → Acts s.ports.trace (body s)

theorem guardsActing {i : Instr} {body : State → State}
    (h : ∀ s, Silent s.ports.trace s → Acts s.ports.trace (body s)) : GuardsActing i (guarded i body) := ⟨body, rfl, h⟩

theorem configured_guardsActing {i : Instr} {f : State → Regs} (hf : ∀ s, (f s).err = s.regs.err) :
    GuardsActing i (guarded i fun s => s.configured (f s)) :=
  guardsActing fun s h => (h.withRegs (hf s)).rsp 0

theorem raise_or_configured_guardsActing {i : Instr} {c : State → Prop} [DecidablePred c] {e : Err} {f : State → Regs}
    (he : e ≠ .phase) (hf : ∀ s, (f s).err = s.regs.err) :
    GuardsActing i (guarded i fun s => if c s then s.raise e else s.configured (f s)) :=
  guardsActing fun s h => .ite (h.raise he) (h.withRegs_rsp (hf s))

theorem validate_ne_phase (b : Build) (r : Regs) : validate b r ≠ .phase := by
  unfold validate
  repeat' split
  all_goals nofun

theorem validated_guardsActing {i : Instr} {body : State → State}
    (h : ∀ s, Silent s.ports.trace s → Acts s.ports.trace (body s)) : GuardsActing i (guarded i (validated body)) :=
  guardsActing fun s hs => .ite (h s hs) (hs.raise (validate_ne_phase _ _))

/-- Every command but the two that act in FAULT is a body behind the checks of R251. -/
theorem exec_shape (i : Instr) : i = .srst ∨ (∃ num, i = .rdreg num) ∨ GuardsActing i (exec i) := by
  cases i with
  | srst => exact .inl rfl
  | rdreg num => exact .inr (.inl ⟨num, rfl⟩)
  | nop | reval | revalc => exact .inr (.inr (guardsActing fun _ h => h.rsp _))
  | setn | rsclr | setc1 | setc2 | setipb | setwarm | setmode | setxi | mix =>
    exact .inr (.inr (configured_guardsActing fun _ => rfl))
  | warmup => exact .inr (.inr (configured_guardsActing fun s => evolveTimes_err _ s.regs))
  | rspush | setdlen | lddig => exact .inr (.inr (raise_or_configured_guardsActing nofun fun _ => rfl))
  | rdcell => exact .inr (.inr (guardsActing fun _ h => .ite (h.raise nofun) (h.rsp _)))
  | seed => exact .inr (.inr (validated_guardsActing fun _ h => h.withRegs_rsp rfl))
  | seedraw => exact .inr (.inr (validated_guardsActing fun _ h => .run (h.withRegs_wait rfl)))
  | genb => exact .inr (.inr (guardsActing fun _ h => (startByte_acts h _).run))
  | fill len => exact .inr (.inr (guardsActing fun _ h => (fillNext_acts h _ _).run))
  | xstream | xstreamx => exact .inr (.inr (guardsActing fun _ h => (h.wait _).run))


/-- Settles O13: the check of R95 refuses the word, and the term is one of the three guarded commands it restricts. -/
theorem illFormedCommandIsIllegal : Obligations.IllFormedCommandIsIllegal := by
  intro i s hi
  refine ⟨?word, fun hp => ?term⟩
  case word =>
    obtain ⟨why, h⟩ := decode_encode i
    exact ⟨why, by rw [h, checked, hi]; rfl⟩
  case term =>
    obtain rfl | ⟨_, rfl⟩ | ⟨body, hbody, -⟩ := exec_shape i
    · cases hi
    · cases hi
    · rw [hbody]
      exact guarded_ill_formed hp hi

/-! ## The phase table (R108) -/

theorem Phase.unfaulted_iff {p : Phase} : p.unfaulted = true ↔ p ≠ .fault := by cases p <;> decide

/-- `SRST` and `RDREG` are allowed in every phase but FAULT, where they act by their own meanings. -/
theorem mem_allowedPhases_of_unfaulted {i : Instr} {p : Phase} (h : p ≠ .fault) (hi : legalIn i = Phase.unfaulted) :
    p ∈ allowedPhases i.mnemonic :=
  (legalIn_eq_true_iff i p h).1 (by rw [hi]; exact Phase.unfaulted_iff.2 h)

theorem ne_fault_of_mem_allowedPhases {i : Instr} {p : Phase} (h : p ∈ allowedPhases i.mnemonic) : p ≠ .fault := by
  rintro rfl
  revert h
  cases i <;> simp only [Instr.mnemonic] <;> decide

/-- In a phase that the table does not allow, `SRST` and `RDREG` are not met, and any other command is refused. -/
theorem exec_of_not_allowed {i : Instr} {s : State} (hi : i.wellFormed = true) (hp : s.regs.phase ≠ .fault)
    (hn : s.regs.phase ∉ allowedPhases i.mnemonic) : exec i s = .next (s.faulted .phase) := by
  obtain rfl | ⟨_, rfl⟩ | ⟨body, hbody, -⟩ := exec_shape i
  · exact absurd (mem_allowedPhases_of_unfaulted hp rfl) hn
  · exact absurd (mem_allowedPhases_of_unfaulted hp rfl) hn
  · rw [hbody]
    exact guarded_wrong_phase hp hi (Bool.eq_false_iff.2 (mt (legalIn_eq_true_iff i _ hp).1 hn))

/-- In a phase that the table allows, a command comes to a wait or to its response. -/
theorem exec_of_allowed {i : Instr} {s : State} (hi : i.wellFormed = true)
    (ha : s.regs.phase ∈ allowedPhases i.mnemonic) (he : s.regs.err = .none) :
    ∃ t, exec i s = .next t ∧ Acts s.ports.trace t := by
  have hsilent := Silent.refl he
  have hp := ne_fault_of_mem_allowedPhases ha
  obtain rfl | ⟨num, rfl⟩ | ⟨body, hbody, hacts⟩ := exec_shape i
  · exact ⟨_, rfl, hsilent.withRegs_rsp he.symm⟩
  · refine ⟨_, execRdreg_eq num s, ?_⟩
    unfold readRegister
    cases s.register num.toNat with
    | some v => rw [Option.elim_some, he]; exact hsilent.rsp v
    | none => rw [Option.elim_none, if_neg hp]; exact hsilent.raise nofun
  · exact ⟨body s, by rw [hbody]; exact guarded_runs hp hi ((legalIn_eq_true_iff i _ hp).2 ha), hacts s hsilent⟩

theorem Acts.err_ne_phase {p : List Item} {t : State} (h : Acts p t) : t.regs.err ≠ .phase := by
  obtain ⟨-, hsilent⟩ | ⟨-, he⟩ := h
  · rw [hsilent.err]; nofun
  · exact he

/-- In FAULT every command but two is dropped (R250). -/
theorem exec_in_fault {i : Instr} {s : State} (hsrst : i ≠ .srst) (hrdreg : ∀ num, i ≠ .rdreg num)
    (hp : s.regs.phase = .fault) : exec i s = .next s.dropped := by
  obtain h | ⟨num, h⟩ | ⟨body, hbody, -⟩ := exec_shape i
  · exact absurd h hsrst
  · exact absurd h (hrdreg num)
  · rw [hbody, guarded_in_fault hp]

/-- Settles O12: a guarded command meets the checks of R251 in their order; `SRST` and `RDREG` pass them by. -/
theorem phaseTableDecides : Obligations.PhaseTableDecides := by
  intro i s hi
  refine ⟨exec_of_not_allowed hi, fun ha he => ?allowed, fun hp => ?fault⟩
  case allowed =>
    obtain ⟨t, ht, hacts⟩ := exec_of_allowed hi ha he
    exact ⟨t, ht, hacts.err_ne_phase⟩
  case fault =>
    split
    case h_1 => rfl
    case h_2 num =>
      refine (execRdreg_eq num s).trans (congrArg _ ?_)
      unfold readRegister
      cases s.register num.toNat with
      | some v => rfl
      | none => exact if_pos hp
    case h_3 hsrst hrdreg => exact exec_in_fault hsrst hrdreg hp

/-! ## Exactly one response (R101) -/

/-- What a command comes to from any state: it waits with no response so far, or it has ended. -/
def Responds (p : List Item) (t : State) : Prop :=
  (t.job ≠ none ∧ ∃ mid, t.ports.trace = mid ++ p ∧ NoRsp mid) ∨ Answers p t

theorem Acts.responds {p : List Item} {t : State} (h : Acts p t) : Responds p t :=
  h.imp (fun ⟨hj, hs⟩ => ⟨hj, hs.trace⟩) And.left

/-- A response with nothing before it. -/
theorem answers_rsp {s : State} {e : Err} (he : s.regs.err = e) (v : Nat) : Answers s.ports.trace (s.rsp e v) :=
  ⟨rfl, BitVec.ofNat 24 v, [], by rw [← he]; rfl, .nil⟩

theorem answers_raise (s : State) (c : Err) : Answers s.ports.trace (s.raise c) :=
  answers_rsp (s := s.withRegs { s.regs with err := c, phase := .fault }) rfl 0

theorem answers_dropped (s : State) : Answers s.ports.trace s.dropped := answers_rsp rfl 0

theorem answers_illegalCommand (s : State) : Answers s.ports.trace s.illegalCommand := by
  unfold State.illegalCommand
  split
  · exact answers_dropped s
  · exact answers_raise s _

theorem answers_readRegister (num : Imm) (s : State) : Answers s.ports.trace (readRegister num s) := by
  unfold readRegister
  cases s.register num.toNat with
  | some v => exact answers_rsp rfl v
  | none =>
    rw [Option.elim_none]
    split
    · exact answers_dropped s
    · exact answers_raise s _

/-- From FAULT, too, a command comes to its one response. -/
theorem exec_responds {i : Instr} {s t : State} (hs : s.regs.phase ≠ .fault → s.regs.err = .none)
    (h : exec i s = .next t) : Responds s.ports.trace t := by
  obtain rfl | ⟨num, rfl⟩ | ⟨body, hbody, hacts⟩ := exec_shape i
  · obtain rfl := Host.Outcome.next.inj h
    exact .inr (answers_rsp (s := s.cleared) rfl 0)
  · obtain rfl := Host.Outcome.next.inj ((execRdreg_eq num s).symm.trans h)
    exact .inr (answers_readRegister num s)
  · obtain ⟨-, rfl⟩ | ⟨-, -, rfl⟩ | ⟨-, -, -, rfl⟩ | ⟨hp, -, -, rfl⟩ := guarded_cases (hbody ▸ h)
    · exact .inr (answers_dropped s)
    · exact .inr (answers_raise s _)
    · exact .inr (answers_raise s _)
    · exact (hacts s (.refl (hs hp))).responds

/-- A command in progress has not faulted. -/
theorem JobOk.ne_fault {b : Build} {r : Regs} {j : Job} (h : JobOk b r j) : r.phase ≠ .fault := by
  cases j with
  | seedRaw | draw | fillOut | read | keyIn | write =>
    obtain ⟨hp, -⟩ := h
    intro hf
    rw [hf] at hp
    cases hp

/-- The command word that is taken is no response either. -/
theorem Responds.after_takeCmd {s u t : State} {w : Word} (hc : s.takeCmd = some (w, u))
    (h : Responds u.ports.trace t) : Responds s.ports.trace t := by
  rw [State.takeCmd_ports hc, Ports.cross_trace] at h
  have longer {mid : List Item} (hno : NoRsp mid) : NoRsp (mid ++ [.cmd w]) := hno.append (.cons nofun .nil)
  obtain ⟨hj, mid, hmid, hno⟩ | ⟨hj, v, mid, hmid, hno⟩ := h
  · exact .inl ⟨hj, _, by rw [hmid, List.append_assoc]; rfl, longer hno⟩
  · exact .inr ⟨hj, v, _, by rw [hmid, List.cons_append, List.cons_append, List.append_assoc]; rfl, longer hno⟩

/-- With a command in progress or a word to take, the block comes to a wait or to the response. -/
theorem proceed_responds {s t : State} (h : BlockInv s) (hdue : s.job ≠ none ∨ s.ports.cmd ≠ [])
    (hp : proceed s = .next t) : Responds s.ports.trace t := by
  obtain ⟨hregs, hjobs⟩ := blockInv_iff.1 h
  obtain ⟨j, hj, rfl⟩ | ⟨hj, hc, -⟩ | ⟨w, u, i, -, hc, -, he⟩ | ⟨w, u, e, -, hc, -, rfl⟩ := proceed_cases hp
  · have hsilent : Silent s.ports.trace s := .refl (hregs.err_eq_none (hjobs j hj).ne_fault)
    exact (Acts.run (.inl ⟨hj ▸ nofun, hsilent⟩)).responds
  · exact absurd hdue (by simp [hj, hc])
  · obtain ⟨-, hr⟩ := State.takeCmd_build_regs hc
    exact .after_takeCmd hc (exec_responds (hr ▸ hregs.err_eq_none) he)
  · exact .after_takeCmd hc (.inr (answers_illegalCommand u))

/-- Settles O11: with nothing to do nothing crosses; else the block proceeds to a wait or to the one response. -/
theorem oneResponsePerCommand : Obligations.OneResponsePerCommand := by
  intro s t h hr hs
  have hp : proceed s = .next t := by simpa [step, hr] using hs
  by_cases hidle : s.job = none ∧ s.ports.cmd = []
  case pos =>
    obtain ⟨hj, hc⟩ := hidle
    obtain rfl : t = s := by simpa [proceed, hj, State.takeCmd, hc, eq_comm] using hp
    exact ⟨[], rfl, fun ⟨_, hdue⟩ => absurd hdue (by simp [hj, hc]), fun _ => NoRsp.nil⟩
  case neg =>
    have hdue : s.job ≠ none ∨ s.ports.cmd ≠ [] := not_and_or.1 hidle
    obtain ⟨hj, mid, hmid, hno⟩ | ⟨hj, v, mid, hmid, hno⟩ := proceed_responds h hdue hp
    · exact ⟨mid, hmid, fun ⟨hend, _⟩ => absurd hend hj, fun _ => hno⟩
    · exact ⟨_, hmid, fun _ => ⟨v, mid, rfl, hno⟩, fun hnone => absurd hnone (not_or.2 ⟨not_not.2 hj, hidle⟩)⟩

end Sys2Proof.Machine
end

section
/-! PROOFS. The rule engine (spec/40_rule_engine.md R121 to R127) and `NOP` (spec/45_system_readback.md R205). `REVAL`,
`REVALC` and `NOP` are commands that only answer: behind the checks of R251 they put one value on `RSP`, so what is left
of each is which value that is. -/

namespace Sys2Proof.Machine

/-! ## The table form and the closed form -/

/-- The table form as arithmetic on the rule number (R121). -/
theorem ruleEval_toNat (left center right : Bool) (rule : Byte) :
    (ruleEval left center right rule).toNat =
      rule.toNat / 2 ^ (left.toNat * 4 + center.toNat * 2 + right.toNat) % 2 :=
  Nat.toNat_testBit rule.toNat _

/-- Settles O19: a bit of a number is a remainder of its quotient by a power of two. -/
theorem ruleEvalIsTheTableBit : Obligations.RuleEvalIsTheTableBit := ruleEval_toNat

/-- A rule with a closed form is compared with the table at the eight neighbourhoods; any other rule has only the
table (R123). -/
theorem ruleEvalClosed_eq_ruleEval (a b c : Bool) (rule : Byte) : ruleEvalClosed a b c rule = ruleEval a b c rule := by
  unfold ruleEvalClosed
  split
  case h_9 => rfl
  all_goals
    revert a b c
    decide

/-- Settles O20: rule by rule, over the rules that have a closed form. -/
theorem closedFormAgreesWithTable : Obligations.ClosedFormAgreesWithTable :=
  fun rule a b c => ruleEvalClosed_eq_ruleEval a b c rule

/-! ## The commands that only answer -/

/-- The three bits of `nb`, left first, make up the neighbourhood code `nb`. -/
theorem neighbourhood_code :
    ∀ nb : BitVec 3, (nb.getLsbD 2).toNat * 4 + (nb.getLsbD 1).toNat * 2 + (nb.getLsbD 0).toNat = nb.toNat := by
  decide

/-- On the bits of `nb` the table form is bit `nb` of the rule number (R124). -/
theorem ruleEval_neighbourhood (nb : BitVec 3) (rule : Byte) :
    (ruleEval (nb.getLsbD 2) (nb.getLsbD 1) (nb.getLsbD 0) rule).toNat = rule.toNat / 2 ^ nb.toNat % 2 := by
  rw [ruleEval_toNat, neighbourhood_code]

/-- A payload that fits its 24 bits is the whole response word when the error code is 0 (R101). -/
theorem none_code_append_ofNat {v : Nat} (hv : v < 2 ^ 24) : Err.none.code ++ BitVec.ofNat 24 v = BitVec.ofNat 32 v := by
  apply BitVec.eq_of_toNat_eq
  have hcode : Err.none.code.toNat = 0 := rfl
  rw [BitVec.toNat_append, hcode, Nat.zero_shiftLeft, Nat.zero_or, BitVec.toNat_ofNat, BitVec.toNat_ofNat]
  omega

/-- A command that only answers, and that every phase but FAULT allows, answers its value and changes nothing. -/
theorem guarded_rsp_answers {i : Instr} {v : Nat} {s : State} (hp : s.regs.phase ≠ .fault) (hi : i.wellFormed = true)
    (hl : legalIn i = Phase.unfaulted) (hv : v < 2 ^ 24) :
    guarded i (fun s => s.rsp .none v) s = .next (s.answered s.regs (BitVec.ofNat 32 v)) := by
  have hlegal : legalIn i s.regs.phase = true := by rw [hl]; exact Phase.unfaulted_iff.2 hp
  rw [guarded_runs hp hi hlegal, State.rsp_eq_answered, none_code_append_ofNat hv]

/-- A bit fits the payload of a response. -/
theorem toNat_lt_payload (b : Bool) : b.toNat < 2 ^ 24 := lt_trans b.toNat_lt (by decide)

/-- Settles O21: each of the three answers one bit; that of `REVALC` is that of `REVAL` by R126. -/
theorem nopAndRuleCommandsOnlyAnswer : Obligations.NopAndRuleCommandsOnlyAnswer := by
  intro nb rule s hp
  rw [← ruleEval_neighbourhood nb rule]
  refine ⟨?reval, ?revalc, ?nop⟩
  case reval => exact guarded_rsp_answers hp rfl rfl (toNat_lt_payload _)
  case revalc =>
    rw [← ruleEvalClosed_eq_ruleEval]
    exact guarded_rsp_answers hp rfl rfl (toNat_lt_payload _)
  case nop => exact guarded_rsp_answers hp rfl rfl (toNat_lt_payload false)

end Sys2Proof.Machine
end

section
/-! PROOFS. The configuration commands (spec/41_config.md R130 to R142) and the example words of the command rules. Each
command is said once, by the state it comes to in a phase that allows it: the answer 0 with a register or store written, or
the fault that its operand brings. What is left of each statement is the value that was written. -/

namespace Sys2Proof

/-! ## The example words -/

/-- A word that a well-formed command is encoded to decodes to that command (R90 to R96). -/
theorem decode_of_encode_eq {i : Instr} {w : Word} (hw : encode i = w) (hi : i.wellFormed = true) : decode w = .ok i :=
  hw ▸ decodeOfEncode i hi

/-- A word whose opcode field is 0xFF is of no command (R98). -/
theorem decode_opcode_ff {w : Word} (h : opField w = 0xFF#8) : decode w = .error .unassignedOpcode := by
  simp [decode, h]

/-- The operand field of `XSTREAM` must be zero (R91). -/
theorem decode_xstream_nonzero {w : Word} (h : opField w = 0x40#8) (hz : zeroFieldZ w ≠ 0#24) :
    decode w = .error .mustBeZero := by
  simp [decode, formatZ, h, hz]

/-- Settles O6: each example word is the encoding of its command, and the two others are refused by a field. -/
theorem exampleWordsDecode : Obligations.ExampleWordsDecode :=
  ⟨decode_of_encode_eq rfl rfl, decode_of_encode_eq rfl rfl, decode_of_encode_eq rfl rfl, decode_of_encode_eq rfl rfl,
    decode_of_encode_eq rfl rfl, decode_of_encode_eq rfl rfl, decode_of_encode_eq rfl rfl, decode_of_encode_eq rfl rfl,
    decode_of_encode_eq rfl rfl, decode_of_encode_eq rfl rfl, decode_of_encode_eq rfl rfl,
    decode_opcode_ff rfl, decode_xstream_nonzero rfl (by decide)⟩

end Sys2Proof

namespace Sys2Proof.Machine

/-! ## Commands in a phase that allows them -/

theorem Phase.beforeWarmup_iff {p : Phase} : p.beforeWarmup = true ↔ p = .idle ∨ p = .seeded := by cases p <;> decide

section
variable {i : Instr} {s : State}

/-- In IDLE a configuration command passes the checks of R251. -/
theorem guarded_runs_in_idle {body : State → State} (hp : s.regs.phase = .idle) (hi : i.wellFormed = true)
    (hl : legalIn i = Phase.isIdle) : guarded i body s = .next (body s) := by
  have hlegal : legalIn i s.regs.phase = true := by rw [hl]; exact Phase.isIdle_iff.2 hp
  exact guarded_runs (ne_fault_of_legalIn hlegal) hi hlegal

/-- In IDLE a command that writes registers writes them, answers 0 and changes nothing else (R130). -/
theorem guarded_configured_in_idle {f : Regs → Regs} (hp : s.regs.phase = .idle) (hi : i.wellFormed = true)
    (hl : legalIn i = Phase.isIdle) :
    guarded i (fun s => s.configured (f s.regs)) s = .next (s.answered (f s.regs) 0#32) := by
  rw [guarded_runs_in_idle hp hi hl, State.configured_eq_answered]

end

/-! ## The register writes (R131, R132, R134 to R137) -/

/-- Settles O22: each of the six is a register write behind the checks of R251. -/
theorem registerCommandsWriteTheirRegister : Obligations.RegisterCommandsWriteTheirRegister := by
  intro v s hp
  refine ⟨?setn, ?setc1, ?setc2, ?setipb, ?setwarm, ?rsclr⟩
  case setn => exact guarded_configured_in_idle (f := fun r => { r with size := v }) hp rfl rfl
  case setc1 => exact guarded_configured_in_idle (f := fun r => { r with c1 := v }) hp rfl rfl
  case setc2 => exact guarded_configured_in_idle (f := fun r => { r with c2 := v }) hp rfl rfl
  case setipb => exact guarded_configured_in_idle (f := fun r => { r with ipb := v }) hp rfl rfl
  case setwarm => exact guarded_configured_in_idle (f := fun r => { r with warm := v }) hp rfl rfl
  case rsclr => exact guarded_configured_in_idle (f := fun r => { r with rlen := 0#9, cur := 0#8 }) hp rfl rfl

/-! ## `SETMODE` and `SETXI` (R138, R139) -/

theorem exec_setmode_in_idle {imm : Imm} {s : State} (hp : s.regs.phase = .idle) (h : imm.toNat ≤ 3) :
    exec (.setmode imm) s = .next (s.answered { s.regs with mode := imm.extractLsb' 0 2 } 0#32) :=
  guarded_configured_in_idle (f := fun r => { r with mode := imm.extractLsb' 0 2 }) hp (decide_eq_true h) rfl

theorem exec_setxi_in_idle {sel : BitVec 4} {idx : Imm} {s : State} (hp : s.regs.phase = .idle) (h : sel.toNat ≤ 7) :
    exec (.setxi sel idx) s =
      .next (s.answered { s.regs with xi := s.regs.xi.setIfInBounds sel.toNat idx } 0#32) :=
  guarded_configured_in_idle (f := fun r => { r with xi := r.xi.setIfInBounds sel.toNat idx }) hp (decide_eq_true h) rfl

theorem getLsbD_extractLsb'_mode (imm : Imm) {j : Nat} (hj : j < 2) :
    (imm.extractLsb' 0 2).getLsbD j = imm.getLsbD j := by
  simp [hj]

/-- Settles O23: the two low bits of the operand are the two bits of `MODE`, and a slot is one element of the vector. -/
theorem modeAndIndexCommandsWrite : Obligations.ModeAndIndexCommandsWrite := by
  intro imm idx sel s hp
  refine ⟨fun himm => ?mode, fun hsel => ?index⟩
  case mode =>
    exact ⟨_, exec_setmode_in_idle hp himm, getLsbD_extractLsb'_mode imm (by decide),
      getLsbD_extractLsb'_mode imm (by decide)⟩
  case index =>
    refine ⟨_, exec_setxi_in_idle hp hsel, fun k => ?_⟩
    simp only [Fin.getElem_fin, Vector.getElem_setIfInBounds, eq_comm]

/-! ## `RSPUSH` (R133) -/

/-- `RSPUSH` with a rule in range appends it, unless the schedule is full (R244). -/
theorem exec_rspush_in_idle {imm : Imm} {s : State} (hp : s.regs.phase = .idle) (h : imm.toNat ≤ 255) :
    exec (.rspush imm) s =
      .next (if s.regs.rlen.toNat = s.build.lmax then s.faulted .range
        else s.answered
          { s.regs with
            rs := s.regs.rs.write s.regs.rlen.toNat (imm.extractLsb' 0 8)
            rlen := s.regs.rlen + 1#9 } 0#32) := by
  rw [exec, execRspush, guarded_runs_in_idle (i := .rspush imm) hp (decide_eq_true h) rfl, State.raise_eq_faulted,
    State.configured_eq_answered]

/-- An operand up to 255 is its low byte. -/
theorem toNat_extractLsb'_byte {imm : Imm} (h : imm.toNat ≤ 255) : (imm.extractLsb' 0 8).toNat = imm.toNat := by
  rw [BitVec.extractLsb'_toNat, Nat.shiftRight_zero]
  exact Nat.mod_eq_of_lt (by omega)

theorem add_one_eq_ofNat (x : BitVec 9) : x + 1#9 = BitVec.ofNat 9 (x.toNat + 1) := by
  rw [BitVec.ofNat_add, BitVec.ofNat_toNat, BitVec.setWidth_eq]

/-- Settles O24: the appended entry by the read-after-write laws of the schedule store. -/
theorem rspushAppendsOrFaults : Obligations.RspushAppendsOrFaults := by
  intro imm s hp himm _ hrs
  rw [exec_rspush_in_idle hp himm]
  refine ⟨fun hroom => ?appends, fun hfull => ?full⟩
  case appends =>
    rw [if_neg hroom.ne, add_one_eq_ofNat]
    refine ⟨_, rfl, ?_, fun a ha => Memory.read_write_other _ _ _ _ ha⟩
    rw [Memory.read_write_same _ _ _ hrs, toNat_extractLsb'_byte himm]
  case full => rw [if_pos hfull]

/-! ## `SETDLEN` (R141) -/

/-- `SETDLEN` writes the low 9 bits of a length in range; any other length faults (R244). -/
theorem exec_setdlen_in_idle {v : Imm} {s : State} (hp : s.regs.phase = .idle) :
    exec (.setdlen v) s =
      .next (if v.toNat = 0 ∨ v.toNat > s.build.dmax then s.faulted .dlen
        else s.answered { s.regs with dlen := v.setWidth 9 } 0#32) := by
  rw [exec, execSetdlen, guarded_runs_in_idle hp rfl rfl, State.raise_eq_faulted, State.configured_eq_answered]

theorem toNat_setWidth_dlen {v : Imm} (h : v.toNat < 2 ^ 9) : (v.setWidth 9).toNat = v.toNat := by
  rw [BitVec.toNat_setWidth, Nat.mod_eq_of_lt h]

/-- Settles O25: `DMAX` is at most 256 (R10), so a length in range fits the 9 bits of `DLEN`. -/
theorem setDlenWritesOrFaults : Obligations.SetDlenWritesOrFaults := by
  intro v s hp hb
  obtain ⟨-, -, ⟨-, hdmax⟩, -⟩ := hb
  rw [exec_setdlen_in_idle hp]
  refine ⟨fun hpos hle => ?writes, fun hout => ?faults⟩
  case writes =>
    rw [if_neg (by omega)]
    exact ⟨_, toNat_setWidth_dlen (by omega), rfl⟩
  case faults => rw [if_pos hout]

/-! ## `LDDIG` (R142) -/

/-- `LDDIG` writes a byte of the digest buffer, unless the position is beyond it (R244). -/
theorem exec_lddig_before_warmup {pos val : Byte} {s : State} (hp : s.regs.phase.beforeWarmup = true) :
    exec (.lddig pos val) s =
      .next (if pos.toNat ≥ s.build.dmax then s.faulted .range
        else s.answered { s.regs with dig := s.regs.dig.write pos.toNat val } 0#32) := by
  have hlegal : legalIn (.lddig pos val) s.regs.phase = true := hp
  rw [exec, execLddig, guarded_runs (ne_fault_of_legalIn hlegal) rfl hlegal, State.raise_eq_faulted,
    State.configured_eq_answered]

/-- Settles O26: the byte written by the read-after-write laws of the digest buffer. -/
theorem lddigWritesOrFaults : Obligations.LddigWritesOrFaults := by
  intro pos val s hp hdig
  rw [exec_lddig_before_warmup (Phase.beforeWarmup_iff.2 hp)]
  refine ⟨fun hin => ?writes, fun hbeyond => ?faults⟩
  case writes =>
    rw [if_neg hin.not_ge]
    exact ⟨_, rfl, Memory.read_write_same _ _ _ hdig, fun a ha => Memory.read_write_other _ _ _ _ ha⟩
  case faults => rw [if_pos hbeyond]

end Sys2Proof.Machine
end

section
/-! PROOFS. The seeder (spec/42_seeder.md R150 to R154). `SEED` and `MIX` write a grid that is given cell by cell. `SEEDRAW`
has one state for each number of data bytes it has taken: its cells are the bits of those bytes, cut at `N`, since bytes
beyond the needed ones bring only bits beyond the last cell. The symbol that ends the frame then ends the command. -/

namespace Sys2Proof.Machine

/-! ## `Validate` (R150) -/

/-- The checks of `Validate` as checks of numbers. -/
theorem validate_eq_checks (b : Build) (r : Regs) :
    validate b r =
      if r.n < 64 ∨ b.nmax < r.n then .size
      else if r.rlen.toNat = 0 then .rules
      else if r.ipb.toNat = 0 then .ipb
      else if r.mode.getLsbD 0 = true ∧ ∃ k : Fin 8, r.n ≤ (r.xi[k]).toNat then .index
      else .none := by
  simp only [validate, Regs.xmode, BitVec.toNat_eq, BitVec.toNat_ofNat, Nat.zero_mod, gt_iff_lt, ge_iff_le]

/-- Settles O27: each answer by the checks that stand before it; no failing check is a valid configuration. -/
theorem validateGivesTheFirstFailure : Obligations.ValidateGivesTheFirstFailure := by
  intro b r
  refine ⟨fun hsize => ?size, fun hlow hhigh => ?_⟩
  case size => rw [validate_eq_checks, if_pos hsize]
  have hsize : ¬ (r.n < 64 ∨ b.nmax < r.n) := by omega
  refine ⟨fun hrlen => ?rules, fun hrlen => ⟨fun hipb => ?ipb, fun hipb => ⟨fun hxi => ?index, fun hxi => ?none⟩⟩⟩
  case rules => rw [validate_eq_checks, if_neg hsize, if_pos hrlen]
  case ipb => rw [validate_eq_checks, if_neg hsize, if_neg (by omega), if_pos hipb]
  case index => rw [validate_eq_checks, if_neg hsize, if_neg (by omega), if_neg (by omega), if_pos hxi]
  case none =>
    have hindices : r.xmode = true → ∀ k : Fin 8, (r.xi[k]).toNat < r.n := fun hx =>
      hxi.resolve_left (ne_false_of_eq_true hx)
    exact (validate_eq_none_iff b r).2 ⟨⟨hlow, hhigh⟩, hrlen, hipb, hindices⟩

/-- In IDLE with a valid configuration a seeding command passes every check before it acts (R251, R243). -/
theorem guarded_validated_runs {i : Instr} {body : State → State} {s : State} (hp : s.regs.phase = .idle)
    (hc : ConfigOk s.build s.regs) (hi : i.wellFormed = true) (hl : legalIn i = Phase.isIdle) :
    guarded i (validated body) s = .next (body s) := by
  rw [guarded_runs_in_idle hp hi hl, validated, if_pos ((validate_eq_none_iff _ _).2 hc)]

/-! ## `SEED` and `MIX` (R151 to R153) -/

/-- A cell that holds a value. -/
theorem cell_of_lt {g : List Bool} {i : Nat} (h : i < g.length) : cell g i = g[i] := List.getD_eq_getElem _ _ h

theorem cell_seedGrid {r : Regs} {i : Nat} (h : i < r.n) : cell (seedGrid r) i = r.digBit i := by
  rw [cell_of_lt (by rwa [seedGrid_length])]
  simp only [seedGrid, List.getElem_map, List.getElem_range]

theorem cell_mixGrid {r : Regs} {i : Nat} (h : i < r.grid.length) :
    cell (mixGrid r) i = if i < r.n / 8 * 8 then (cell r.grid i ^^ r.digBit i) else cell r.grid i := by
  rw [cell_of_lt (by rwa [mixGrid_length]), cell_of_lt h]
  simp only [mixGrid, List.getElem_mapIdx]

/-- Settles O29: a valid configuration passes the check, and the cells are those of the tiled grid. -/
theorem seedTilesTheDigest : Obligations.SeedTilesTheDigest := by
  intro s hp hc
  refine ⟨seedGrid s.regs, ?_, seedGrid_length _, fun i hi => cell_seedGrid hi⟩
  rw [exec, execSeed, guarded_validated_runs hp hc rfl rfl]
  rfl

/-- Settles O32: SEEDED allows `MIX`, and the cells are those of the mixed grid. -/
theorem mixXorsTheDigest : Obligations.MixXorsTheDigest := by
  intro s hp hg
  have hlegal : legalIn .mix s.regs.phase = true := Phase.isSeeded_iff.2 hp
  refine ⟨mixGrid s.regs, ?_, (mixGrid_length _).trans hg, fun i hi => cell_mixGrid (hg ▸ hi)⟩
  rw [exec, execMix, guarded_runs (ne_fault_of_legalIn hlegal) rfl hlegal]
  rfl

/-! ## The cells of a raw frame (R154) -/

/-- The first `n` bits of the bytes, bit 0 of each first: the cells that the data bytes of a raw frame load. -/
def rawGrid (n : Nat) (bytes : List Byte) : List Bool := (bytes.flatMap bitsOf).take n

theorem length_flatMap_bitsOf (bytes : List Byte) : (bytes.flatMap bitsOf).length = 8 * bytes.length := by
  simp [List.length_flatMap, Nat.mul_comm]

theorem getElem?_bitsOf (v : Byte) {j : Nat} (h : j < 8) : (bitsOf v)[j]? = some (v.getLsbD j) := by
  simp [bitsOf, h]

/-- Bit `i` of the bytes is bit `i mod 8` of byte `i / 8` (R65). -/
theorem getElem?_flatMap_bitsOf (bytes : List Byte) (i : Nat) (h : i / 8 < bytes.length) :
    (bytes.flatMap bitsOf)[i]? = some (bytes[i / 8].getLsbD (i % 8)) := by
  induction bytes generalizing i with
  | nil => cases h
  | cons v vs ih =>
    rw [List.flatMap_cons]
    obtain hi | hi := Nat.lt_or_ge i 8
    · rw [List.getElem?_append_left (by rwa [bitsOf_length]), getElem?_bitsOf v hi]
      simp only [Nat.div_eq_of_lt hi, Nat.mod_eq_of_lt hi, List.getElem_cons_zero]
    · have hdiv : i / 8 = (i - 8) / 8 + 1 := by omega
      have hmod : i % 8 = (i - 8) % 8 := by omega
      rw [List.length_cons] at h
      rw [List.getElem?_append_right (by rwa [bitsOf_length]), bitsOf_length, ih _ (by omega)]
      simp only [hdiv, hmod, List.getElem_cons_succ]

theorem rawGrid_nil (n : Nat) : rawGrid n [] = [] := List.take_nil

theorem rawGrid_length {n : Nat} {bytes : List Byte} (h : n ≤ 8 * bytes.length) : (rawGrid n bytes).length = n := by
  rw [rawGrid, List.length_take, length_flatMap_bitsOf, Nat.min_eq_left h]

theorem cell_rawGrid {n i : Nat} {bytes : List Byte} (hn : i < n) (h : i / 8 < bytes.length) :
    cell (rawGrid n bytes) i = bytes[i / 8].getLsbD (i % 8) := by
  rw [cell, rawGrid, List.getD_eq_getElem?_getD, List.getElem?_take_of_lt hn, getElem?_flatMap_bitsOf bytes i h,
    Option.getD_some]

/-- One more byte appends its bits to the cells loaded so far, as far as there is room. -/
theorem rawGrid_concat (n : Nat) (bytes : List Byte) (v : Byte) :
    rawGrid n (bytes ++ [v]) = (rawGrid n bytes ++ bitsOf v).take n := by
  have hroom : n - min n (8 * bytes.length) = n - 8 * bytes.length := by omega
  rw [rawGrid, rawGrid, List.flatMap_append, List.flatMap_singleton, List.take_append, List.take_append, List.take_take,
    Nat.min_self, List.length_take, length_flatMap_bitsOf, hroom]

/-- A byte behind the last cell loads nothing. -/
theorem rawGrid_concat_of_full {n : Nat} {bytes : List Byte} (v : Byte) (h : n ≤ 8 * bytes.length) :
    rawGrid n (bytes ++ [v]) = rawGrid n bytes := by
  rw [rawGrid_concat, List.take_left' (rawGrid_length h)]

/-! ## `SEEDRAW` along a frame (R154) -/

/-- The block `s` in the middle of `SEEDRAW`: it has taken the symbols `ds` from `DIN`, where `rest` is left, and has loaded
the data bytes `bytes`. -/
def State.rawLoading (s : State) (bytes : List Byte) (ds rest : List Symbol) : State where
  build := s.build
  regs := { s.regs with grid := rawGrid s.regs.n bytes }
  ports := { s.ports with din := rest, trace := takenSymbols ds ++ s.ports.trace }
  job := some (.seedRaw bytes.length)

theorem takenSymbols_concat (ds : List Symbol) (d : Symbol) : takenSymbols (ds ++ [d]) = .din d :: takenSymbols ds := by
  simp [takenSymbols]

/-- The number of bytes needed stays what it was. -/
theorem State.rawLoading_seedBytes (s : State) (bytes : List Byte) (ds rest : List Symbol) :
    (s.rawLoading bytes ds rest).regs.seedBytes = (s.regs.n + 7) / 8 := rfl

/-- In IDLE with a valid configuration `SEEDRAW` begins with nothing loaded, and runs. -/
theorem exec_seedraw_in_idle {s : State} (hp : s.regs.phase = .idle) (hc : ConfigOk s.build s.regs) :
    exec .seedraw s = .next (s.rawLoading [] [] s.ports.din).run := by
  rw [exec, execSeedraw, guarded_validated_runs hp hc rfl rfl, State.rawLoading, rawGrid_nil]
  rfl

/-- One advance takes the next symbol and handles it. -/
theorem advance_rawLoading (s : State) (bytes : List Byte) (ds : List Symbol) (d : Symbol) (rest : List Symbol) :
    advance (.seedRaw bytes.length) (s.rawLoading bytes ds (d :: rest)) =
      some (seedRawSymbol bytes.length d (s.rawLoading bytes (ds ++ [d]) rest)) := by
  rw [State.rawLoading, State.rawLoading, takenSymbols_concat]
  rfl

/-- A data byte is loaded; behind the needed bytes it is only counted, which loads the same cells. -/
theorem seedRawSymbol_data (s : State) (bytes : List Byte) (v : Byte) (ds rest : List Symbol) :
    seedRawSymbol bytes.length (.data v) (s.rawLoading bytes ds rest) = s.rawLoading (bytes ++ [v]) ds rest := by
  rw [seedRawSymbol, State.rawLoading_seedBytes, State.rawLoading, State.rawLoading, List.length_append,
    List.length_singleton]
  split
  · rw [rawGrid_concat]; rfl
  · rw [rawGrid_concat_of_full v (by omega)]; rfl

/-- `SEEDRAW` takes all the data bytes that stand at the head of `DIN`. -/
theorem run_rawLoading_data (s : State) (bytes more : List Byte) (rest : List Symbol) :
    (s.rawLoading bytes (bytes.map .data) (more.map .data ++ rest)).run =
      (s.rawLoading (bytes ++ more) ((bytes ++ more).map .data) rest).run := by
  induction more generalizing bytes with
  | nil => rw [List.append_nil, List.map_nil, List.nil_append]
  | cons v vs ih =>
    have htaken : bytes.map Symbol.data ++ [.data v] = (bytes ++ [v]).map .data := by
      rw [List.map_append, List.map_singleton]
    rw [List.map_cons, List.cons_append, State.run_advance rfl (advance_rawLoading ..), seedRawSymbol_data, htaken, ih,
      ← List.append_cons]

/-- `SEEDRAW` on data bytes and a symbol that ends the command, be it `End` or `IoErr`: what that symbol does is all that
is left. -/
theorem exec_seedraw_of_din {s : State} {bytes : List Byte} {d : Symbol} {rest : List Symbol}
    (hp : s.regs.phase = .idle) (hc : ConfigOk s.build s.regs) (hd : s.ports.din = bytes.map .data ++ d :: rest)
    (hend : ∀ t, (seedRawSymbol bytes.length d t).job = none) :
    exec .seedraw s =
      .next (seedRawSymbol bytes.length d (s.rawLoading bytes (bytes.map .data ++ [d]) rest)) := by
  have hrun := run_rawLoading_data s [] bytes (d :: rest)
  rw [List.map_nil, List.nil_append] at hrun
  rw [exec_seedraw_in_idle hp hc, hd, hrun, State.run_advance rfl (advance_rawLoading ..), State.run_idle (hend _)]

/-- `End` ends the command, with an answer or a fault. -/
theorem seedRawSymbol_endFrame_job (cnt : Nat) (s : State) : (seedRawSymbol cnt .endFrame s).job = none := by
  rw [seedRawSymbol]; split <;> rfl

theorem din_of_frame {ds : List Symbol} {bytes : List Byte} {rest : List Symbol} (h : ds = frameOf bytes ++ rest) :
    ds = bytes.map .data ++ .endFrame :: rest := by
  rw [h, frameOf, List.append_assoc, List.singleton_append]

/-- Settles O30: the `End` comes when the needed bytes have been taken, so it ends the seeding. -/
theorem seedrawLoadsTheFrame : Obligations.SeedrawLoadsTheFrame := by
  intro s bytes rest hp hc hlen hd
  refine ⟨rawGrid s.regs.n bytes, ?_, rawGrid_length (by omega), fun i h hi => cell_rawGrid hi h⟩
  rw [exec_seedraw_of_din hp hc (din_of_frame hd) (seedRawSymbol_endFrame_job _), seedRawSymbol,
    State.rawLoading_seedBytes, if_neg (not_not.2 hlen)]
  rfl

/-- Settles O31: at the `End` the count is wrong, and an `IoErr` faults whatever the count. -/
theorem seedrawFaultsOnBadFrames : Obligations.SeedrawFaultsOnBadFrames := by
  intro s bytes rest hp hc
  refine ⟨fun hlen hd => ⟨rawGrid s.regs.n bytes, ?wrongLength⟩, fun hd => ⟨rawGrid s.regs.n bytes, ?ioErr⟩⟩
  case wrongLength =>
    rw [exec_seedraw_of_din hp hc (din_of_frame hd) (seedRawSymbol_endFrame_job _), seedRawSymbol,
      State.rawLoading_seedBytes, if_pos hlen]
    rfl
  case ioErr =>
    rw [exec_seedraw_of_din hp hc hd fun _ => rfl]
    rfl

end Sys2Proof.Machine
end

section
/-! PROOFS. The commands that talk to the environment and the uncut pseudocode of their rules (spec/43_generator.md R175
to R179, spec/42_seeder.md R154, spec/44_stream.md R191, R192). The resumable machine is compared with the pseudocode
from the inside out: each lemma says that a piece of a command is followed by the pseudocode of that piece and then by
whatever comes next, provided what comes next is followed. -/

namespace Sys2Proof.Machine

/-! ## What it is to follow the pseudocode -/

/-- The pseudocode answers `o`: where it completes, the machine runs to exactly that state; where an item is missing,
the machine runs to a wait. -/
def Follows (s : State) (o : Option State) : Prop := o.elim (s.run.job ≠ none) (s.run = ·)

theorem Follows.of_eq_some {s t : State} {o : Option State} (h : Follows s o) (ho : o = some t) : s.run = t := by
  subst ho; exact h

theorem Follows.waits {s : State} {o : Option State} (h : Follows s o) (ho : o = none) : s.run.job ≠ none := by
  subst ho; exact h

theorem Follows.run (s : State) : Follows s (some s.run) := rfl

/-- A command that has ended. -/
theorem Follows.ended {s : State} (h : s.job = none) : Follows s (some s) := State.run_idle h

theorem Follows.raised (s : State) (c : Err) : Follows (s.raise c) (some (s.raise c)) := .ended rfl

/-- A fault on which nothing comes next. -/
theorem Follows.raised_to {s : State} {c : Err} {o : Option State} (h : o = some (s.raise c)) : Follows (s.raise c) o :=
  h ▸ .raised s c

theorem Follows.responded (e : Err) (p : Nat) (s : State) : Follows (s.rsp e p) (some (s.rsp e p)) := .ended rfl

theorem Follows.ite {c : Prop} [Decidable c] {s t : State} {o q : Option State} (hs : c → Follows s o)
    (ht : ¬ c → Follows t q) : Follows (if c then s else t) (if c then o else q) := by
  split
  · exact hs ‹_›
  · exact ht ‹_›

/-- A wait for an item, where handling the item does not look at the wait itself: with no item there is nothing to
follow, and with one the machine goes on. -/
theorem Follows.wait {α : Type} {j : Job} {s : State} {o : Option (α × State)} {handle : α → State → State}
    {next : α × State → Option State} (hadv : advance j (s.wait j) = o.map fun x => handle x.1 (x.2.wait j))
    (hblind : ∀ a t, handle a (t.wait j) = handle a t)
    (hnext : ∀ a t, o = some (a, t) → Follows (handle a t) (next (a, t))) : Follows (s.wait j) (o.bind next) := by
  cases ho : o with
  | none =>
    have hwaits : (s.wait j).run = s.wait j := State.run_waiting rfl (by rw [hadv, ho]; rfl)
    show (s.wait j).run.job ≠ none
    rw [hwaits]
    exact nofun
  | some x =>
    obtain ⟨a, t⟩ := x
    have hgoes : (s.wait j).run = (handle a t).run :=
      (State.run_advance rfl (by rw [hadv, ho]; rfl)).trans (congrArg State.run (hblind a t))
    have hfollows := hnext a t ho
    unfold Follows at hfollows ⊢
    rw [hgoes]
    exact hfollows

/-! ## The pieces of a command overwrite the wait they come from -/

section
variable (j : Job) (s : State)

theorem takeDin_wait : (s.wait j).takeDin = s.takeDin.map fun x => (x.1, x.2.wait j) := by
  cases h : s.ports.din <;> simp [State.takeDin, State.wait, h]

theorem takeAnswer_wait (v : Byte) : (s.wait j).takeAnswer v = (s.takeAnswer v).map fun x => (x.1, x.2.wait j) := by
  cases h : s.ports.sink <;> simp [State.takeAnswer, State.wait, h]

theorem takeKey_wait : (s.wait j).takeKey = s.takeKey.map fun x => (x.1, x.2.wait j) := by
  cases h : s.ports.kin <;> simp [State.takeKey, State.wait, h]

theorem takeDraw_wait : (s.wait j).takeDraw = s.takeDraw.map fun x => (x.1, x.2.wait j) := by
  cases h : s.ports.drw <;> simp [State.takeDraw, State.wait, h]

theorem seedRawSymbol_wait (cnt : Nat) (d : Symbol) : seedRawSymbol cnt d (s.wait j) = seedRawSymbol cnt d s := by
  cases d <;> rfl

theorem streamOffer_wait (src : KeySource) (cnt : Nat) (last : Bool) (bytes : List Byte) :
    streamOffer src cnt last bytes (s.wait j) = streamOffer src cnt last bytes s := by
  cases bytes <;> rfl

theorem keyBytes_wait (cnt : Nat) (last : Bool) (ib : List Byte) (left : Nat) (kb : List Byte) :
    keyBytes cnt last ib left kb (s.wait j) = keyBytes cnt last ib left kb s := by
  induction left generalizing kb s with
  | zero => exact streamOffer_wait j s _ _ _ _
  | succ left ih => exact ite_congr rfl (fun _ => rfl) fun _ => ih s.evolved.produced _

theorem finishByte_wait (u : ByteUse) : finishByte u (s.wait j) = finishByte u s := by
  cases u with
  | genb => rfl
  | fill left cnt => rfl
  | key left cnt last ib kb => exact keyBytes_wait j s.produced _ _ _ _ _

theorem startByte_wait (u : ByteUse) : startByte u (s.wait j) = startByte u s :=
  ite_congr rfl (fun _ => rfl) fun _ => finishByte_wait j s.evolved u

theorem nextTrial_wait (u : ByteUse) (left : Nat) : nextTrial u left (s.wait j) = nextTrial u left s := by
  cases left with
  | zero => exact finishByte_wait j s u
  | succ left => rfl

theorem drawAnswer_wait (p : DrawPoint) (u : ByteUse) (d : Word) :
    drawAnswer p u d (s.wait j) = drawAnswer p u d s := by
  cases p with
  | gate2 => exact ite_congr rfl (fun _ => rfl) fun _ => finishByte_wait j s u
  | gate1 => exact ite_congr rfl (fun _ => rfl) fun _ => nextTrial_wait j s u _
  | flip => exact nextTrial_wait j (s.withRegs _) u _
  | trial left => exact nextTrial_wait j (s.withRegs _) u left

theorem fillNext_wait (left cnt : Nat) : fillNext left cnt (s.wait j) = fillNext left cnt s := by
  cases left with
  | zero => rfl
  | succ left => exact startByte_wait j s _

theorem fillAnswer_wait (left cnt : Nat) (a : Answer) : fillAnswer left cnt a (s.wait j) = fillAnswer left cnt a s := by
  cases a with
  | ok => exact fillNext_wait j s _ _
  | ioerr => rfl

theorem keyFill_wait (src : KeySource) (cnt : Nat) (last : Bool) (ib : List Byte) :
    keyFill src cnt last ib (s.wait j) = keyFill src cnt last ib s := by
  cases src with
  | int => exact keyBytes_wait j s _ _ _ _ _
  | ext => rfl

theorem readSymbol_wait (src : KeySource) (cnt : Nat) (ib : List Byte) (d : Symbol) :
    readSymbol src cnt ib d (s.wait j) = readSymbol src cnt ib d s := by
  cases d with
  | ioErr => rfl
  | endFrame => exact ite_congr rfl (fun _ => rfl) fun _ => keyFill_wait j s _ _ _ _
  | data v => exact ite_congr rfl (fun _ => rfl) fun _ => keyFill_wait j s _ _ _ _

theorem keyByte_wait (cnt : Nat) (last : Bool) (ib kb : List Byte) (v : Byte) :
    keyByte cnt last ib kb v (s.wait j) = keyByte cnt last ib kb v s :=
  ite_congr rfl (fun _ => rfl) fun _ => streamOffer_wait j s _ _ _ _

theorem progress_wait (cnt : Nat) : progress cnt (s.wait j) = (progress cnt s).wait j := by
  unfold progress; split <;> rfl

theorem writeAnswer_wait (src : KeySource) (cnt : Nat) (last : Bool) (rest : List Byte) (a : Answer) :
    writeAnswer src cnt last rest a (s.wait j) = writeAnswer src cnt last rest a s := by
  cases a with
  | ok => rw [writeAnswer, writeAnswer, progress_wait, streamOffer_wait]
  | ioerr => rfl

end

/-! ## The five kinds of wait -/

section
variable {s : State}

theorem Follows.seedRaw {cnt : Nat} {next : Symbol × State → Option State}
    (h : ∀ d t, s.takeDin = some (d, t) → Follows (seedRawSymbol cnt d t) (next (d, t))) :
    Follows (s.wait (.seedRaw cnt)) (s.takeDin.bind next) :=
  .wait (handle := seedRawSymbol cnt) (by simp [advance, takeDin_wait, Function.comp_def])
    (fun d t => seedRawSymbol_wait _ t cnt d) h

theorem Follows.ask {k : DrawKind} {p : DrawPoint} {u : ByteUse} {next : Word × State → Option State}
    (h : ∀ d t, Ref.draw k s = some (d, t) → Follows (drawAnswer p u d t) (next (d, t))) :
    Follows (s.ask k p u) ((Ref.draw k s).bind next) :=
  .wait (s := s.emit (.drq k)) (handle := drawAnswer p u)
    (by simp [advance, Ref.draw, takeDraw_wait, Function.comp_def]) (fun d t => drawAnswer_wait _ t p u d) h

theorem Follows.fillOffer {left cnt : Nat} {v : Byte} {next : Answer × State → Option State}
    (h : ∀ a t, s.takeAnswer v = some (a, t) → Follows (fillAnswer left cnt a t) (next (a, t))) :
    Follows (fillOffer left cnt v s) ((s.takeAnswer v).bind next) :=
  .wait (handle := fillAnswer left cnt) (by simp [advance, takeAnswer_wait, Function.comp_def])
    (fun a t => fillAnswer_wait _ t left cnt a) h

theorem Follows.read {src : KeySource} {cnt : Nat} {ib : List Byte} {next : Symbol × State → Option State}
    (h : ∀ d t, s.takeDin = some (d, t) → Follows (readSymbol src cnt ib d t) (next (d, t))) :
    Follows (s.wait (.read src cnt ib)) (s.takeDin.bind next) :=
  .wait (handle := readSymbol src cnt ib) (by simp [advance, takeDin_wait, Function.comp_def])
    (fun d t => readSymbol_wait _ t src cnt ib d) h

theorem Follows.keyIn {cnt : Nat} {last : Bool} {ib kb : List Byte} {next : Byte × State → Option State}
    (h : ∀ v t, s.takeKey = some (v, t) → Follows (keyByte cnt last ib kb v t) (next (v, t))) :
    Follows (s.wait (.keyIn cnt last ib kb)) (s.takeKey.bind next) :=
  .wait (handle := keyByte cnt last ib kb) (by simp [advance, takeKey_wait, Function.comp_def])
    (fun v t => keyByte_wait _ t cnt last ib kb v) h

theorem Follows.write {src : KeySource} {cnt : Nat} {last : Bool} {v : Byte} {rest : List Byte}
    {next : Answer × State → Option State}
    (h : ∀ a t, s.takeAnswer v = some (a, t) → Follows (writeAnswer src cnt last rest a t) (next (a, t))) :
    Follows (s.wait (.write src cnt last v rest)) ((s.takeAnswer v).bind next) :=
  .wait (handle := writeAnswer src cnt last rest) (by simp [advance, takeAnswer_wait, Function.comp_def])
    (fun a t => writeAnswer_wait _ t src cnt last rest a) h

end

/-! ## Producing bytes (R175, R176) -/

/-- The build and what is offered on `DIN` are the same: all that the chunk loop of `Stream` looks at. -/
structure SameFrames (s t : State) : Prop where
  build : t.build = s.build
  din : t.ports.din = s.ports.din

theorem SameFrames.refl (s : State) : SameFrames s s := ⟨rfl, rfl⟩

theorem SameFrames.trans {s t u : State} (h : SameFrames s t) (k : SameFrames t u) : SameFrames s u :=
  ⟨k.build.trans h.build, k.din.trans h.din⟩

/-- The registers do not count. -/
theorem SameFrames.of_withRegs {s t : State} {r : Regs} (h : SameFrames (s.withRegs r) t) : SameFrames s t :=
  ⟨h.build, h.din⟩

theorem SameFrames.of_draw {k : DrawKind} {s t : State} {d : Word} (h : Ref.draw k s = some (d, t)) :
    SameFrames s t := by
  obtain ⟨rest, -, rfl⟩ := State.takeDraw_eq_some.1 h
  exact ⟨rfl, rfl⟩

theorem SameFrames.of_takeAnswer {v : Byte} {s t : State} {a : Answer} (h : s.takeAnswer v = some (a, t)) :
    SameFrames s t := by
  obtain ⟨rest, -, rfl⟩ := State.takeAnswer_eq_some.1 h
  exact ⟨rfl, rfl⟩

theorem SameFrames.of_takeKey {v : Byte} {s t : State} (h : s.takeKey = some (v, t)) : SameFrames s t := by
  obtain ⟨rest, -, rfl⟩ := State.takeKey_eq_some.1 h
  exact ⟨rfl, rfl⟩

theorem SameFrames.of_progress (cnt : Nat) (s : State) : SameFrames s (progress cnt s) := by
  obtain ⟨hb, -, -, hd, -⟩ := progress_same cnt s
  exact ⟨hb, hd⟩

section
variable {u : ByteUse}

theorem nextTrial_follows {next : State → Option State} (left : Nat) {s : State}
    (h : ∀ t, SameFrames s t → Follows (finishByte u t) (next t)) :
    Follows (nextTrial u left s) ((Ref.trials left s).bind next) := by
  induction left generalizing s with
  | zero => exact h s (.refl s)
  | succ left ih =>
    rw [Ref.trials, Option.bind_assoc]
    exact .ask fun d t hd => ih (s := t.withRegs (trialCell d t.regs)) fun v hv =>
      h v ((SameFrames.of_draw hd).trans hv.of_withRegs)

theorem flip_follows {next : State → Option State} (gate : Word) {s : State}
    (h : ∀ t, SameFrames s t → Follows (nextTrial u t.regs.trials t) (next t)) :
    Follows (drawAnswer .gate1 u gate s) ((Ref.flip gate s).bind next) := by
  unfold Ref.flip drawAnswer
  simp only []
  split
  · rw [Option.bind_map]
    refine .ask fun d t hd => h (t.withRegs (flipCell d t.regs)) ?_
    obtain ⟨hb, hdin⟩ := SameFrames.of_draw hd
    exact ⟨hb, hdin⟩
  · exact h s (.refl s)

theorem enhance_follows {next : State → Option State} {s : State}
    (h : ∀ t, SameFrames s t → Follows (finishByte u t) (next t)) :
    Follows (s.ask .gate1 .gate1 u) ((Ref.enhance s).bind next) := by
  rw [Ref.enhance, Option.bind_assoc]
  refine .ask fun g t hg => ?_
  rw [Option.bind_assoc]
  exact flip_follows g fun v hv => nextTrial_follows _ fun w hw => h w (((SameFrames.of_draw hg).trans hv).trans hw)

theorem inject_follows {next : State → Option State} {s : State}
    (h : ∀ t, SameFrames s t → Follows (finishByte u t) (next t)) :
    Follows (if s.regs.ent then s.ask .gate2 .gate2 u else finishByte u s) ((Ref.inject s).bind next) := by
  unfold Ref.inject
  split
  · rw [Option.bind_assoc]
    refine .ask fun g t hg => ?_
    have hs := SameFrames.of_draw hg
    unfold drawAnswer
    simp only []
    split
    · exact enhance_follows fun v hv => h v (hs.trans hv)
    · exact h t hs
  · exact h s (.refl s)

theorem startByte_follows {next : Byte × State → Option State} {s : State}
    (h : ∀ v t, SameFrames s t → Follows (useByte u v t) (next (v, t))) :
    Follows (startByte u s) ((Ref.produceByte s).bind next) := by
  have hent : s.evolved.regs.ent = s.regs.ent := by simp
  rw [Ref.produceByte, Option.bind_map, startByte, ← hent]
  exact inject_follows (s := s.evolved) fun t ht => h (extractByte t.regs) t.produced ⟨ht.build, ht.din⟩

end

/-! ## `GENB` and `FILL` (R178, R179) -/

theorem genb_follows (s : State) : Follows (startByte .genb s) (Ref.genb s) := by
  rw [Ref.genb, Option.map_eq_bind]
  exact startByte_follows fun v t _ => .responded .none v.toNat t

theorem fill_follows (left cnt : Nat) (s : State) : Follows (fillNext left cnt s) (Ref.fill left cnt s) := by
  induction left generalizing cnt s with
  | zero => exact .responded .none cnt s
  | succ left ih =>
    refine startByte_follows fun v t _ => .fillOffer fun a w _ => ?_
    cases a with
    | ok => exact ih (cnt + 1) w
    | ioerr => exact .raised w .io

/-! ## `SEEDRAW` (R154) -/

theorem takeDin_length {s t : State} {d : Symbol} (h : s.takeDin = some (d, t)) :
    t.build = s.build ∧ t.ports.din.length + 1 = s.ports.din.length := by
  obtain ⟨rest, hd, rfl⟩ := State.takeDin_eq_some.1 h
  exact ⟨rfl, by rw [hd]; rfl⟩

/-- A wait for an item that is not offered. -/
theorem run_wait_in_vain {j : Job} {s : State} (hj : waitsInVain j s.ports) :
    (s.wait j).run.job ≠ none := by
  rw [State.run_waiting (s := s.wait j) rfl (advance_eq_none_iff.2 hj)]
  exact nofun

theorem seedRaw_follows (k cnt : Nat) (s : State) (hk : s.ports.din.length = k) :
    Follows (s.wait (.seedRaw cnt)) (Ref.seedRaw k cnt s) := by
  induction k generalizing cnt s with
  | zero =>
    have hd : s.ports.din = [] := List.length_eq_zero_iff.1 hk
    exact run_wait_in_vain hd
  | succ k ih =>
    refine .seedRaw fun d t ht => ?_
    obtain ⟨-, hlen⟩ := takeDin_length ht
    cases d with
    | ioErr => exact .raised t .io
    | endFrame =>
      rw [← apply_ite some]
      exact .ended (seedRawSymbol_endFrame_job cnt t)
    | data v =>
      have hload := ih (cnt + 1) (if cnt < t.regs.seedBytes then t.withRegs (loadCells v t.regs) else t)
        (by rw [apply_ite State.ports, State.withRegs_ports, ite_self]; omega)
      rwa [apply_ite (State.wait _)] at hload

/-! ## `XSTREAM` and `XSTREAMX` (R191, R192) -/

section
variable {last : Bool}

theorem keyBytes_follows {ib : List Byte} {cnt : Nat} {next : List Byte × State → Option State} (left : Nat)
    (kb : List Byte) {s : State}
    (h : ∀ kb' t, SameFrames s t → Follows (streamOffer .int cnt last (xorBytes ib kb') t) (next (kb', t))) :
    Follows (keyBytes cnt last ib left kb s) ((Ref.keyFillInt left kb s).bind next) := by
  induction left generalizing kb s with
  | zero => exact h kb s (.refl s)
  | succ left ih =>
    have hstart : keyBytes cnt last ib (left + 1) kb s = startByte (.key left cnt last ib kb) s := rfl
    rw [hstart, Ref.keyFillInt, Option.bind_assoc]
    exact startByte_follows fun v t ht => ih (kb ++ [v]) fun kb' w hw => h kb' w (ht.trans hw)

theorem keyIn_follows {ib : List Byte} {cnt : Nat} {next : List Byte × State → Option State} (left : Nat)
    (kb : List Byte) {s : State} (hlen : kb.length + (left + 1) = ib.length)
    (h : ∀ kb' t, SameFrames s t → Follows (streamOffer .ext cnt last (xorBytes ib kb') t) (next (kb', t))) :
    Follows (s.wait (.keyIn cnt last ib kb)) ((Ref.keyBytesExt (left + 1) kb s).bind next) := by
  induction left generalizing kb s with
  | zero =>
    rw [Ref.keyBytesExt, Option.bind_assoc]
    refine .keyIn fun v t ht => ?_
    rw [keyByte, if_neg (by omega)]
    exact h (kb ++ [v]) t (.of_takeKey ht)
  | succ left ih =>
    rw [Ref.keyBytesExt, Option.bind_assoc]
    refine .keyIn fun v t ht => ?_
    rw [keyByte, if_pos (by omega)]
    exact ih (kb ++ [v]) (by rw [List.length_append, List.length_singleton]; omega) fun kb' w hw =>
      h kb' w ((SameFrames.of_takeKey ht).trans hw)

theorem keyFill_follows {src : KeySource} {ib : List Byte} {cnt : Nat} {next : List Byte × State → Option State}
    {s : State} (hib : ib ≠ [])
    (h : ∀ kb t, SameFrames s t → Follows (streamOffer src cnt last (xorBytes ib kb) t) (next (kb, t))) :
    Follows (keyFill src cnt last ib s) ((Ref.keyFill src ib.length s).bind next) := by
  cases src with
  | int => exact keyBytes_follows ib.length [] h
  | ext =>
    obtain ⟨left, hleft⟩ : ∃ left, ib.length = left + 1 := Nat.exists_eq_add_one.2 (List.length_pos_iff.2 hib)
    rw [Ref.keyFill, keyFill, hleft]
    exact keyIn_follows left [] (by rw [hleft]; exact Nat.zero_add _) fun kb t ht => h kb t ⟨ht.build, ht.din⟩

theorem writeChunk_follows {src : KeySource} {next : Except State (Nat × State) → Option State} (bytes : List Byte)
    (cnt : Nat) {s : State} (herr : ∀ t, next (.error t) = some t)
    (hok : ∀ cnt' t, SameFrames s t → Follows (streamOffer src cnt' last [] t) (next (.ok (cnt', t)))) :
    Follows (streamOffer src cnt last bytes s) ((Ref.writeChunk bytes cnt s).bind next) := by
  induction bytes generalizing cnt s with
  | nil => exact hok cnt s (.refl s)
  | cons v rest ih =>
    rw [Ref.writeChunk, Option.bind_assoc]
    refine .write fun a t ht => ?_
    cases a with
    | ioerr => exact .raised_to (herr _)
    | ok =>
      exact ih (cnt + 1) fun cnt' w hw =>
        hok cnt' w (((SameFrames.of_takeAnswer ht).trans (.of_progress _ t)).trans hw)

/-- What the machine does when it has read a chunk: an empty one can only be the last. -/
def chunkRead (src : KeySource) (cnt : Nat) (ib : List Byte) (last : Bool) (s : State) : State :=
  if ib = [] then s.rsp .none cnt else keyFill src cnt last ib s

theorem processChunk_follows {src : KeySource} {ib : List Byte} {cnt : Nat}
    {next : Except State (Nat × State) → Option State} {s : State} (hib : ib = [] → last = true)
    (herr : ∀ t, next (.error t) = some t)
    (hok : ∀ cnt' t, SameFrames s t → Follows (streamOffer src cnt' last [] t) (next (.ok (cnt', t)))) :
    Follows (chunkRead src cnt ib last s) ((Ref.processChunk src ib cnt s).bind next) := by
  unfold chunkRead Ref.processChunk
  split
  · next h =>
    obtain rfl := hib h
    exact hok cnt s (.refl s)
  · next h =>
    rw [Option.bind_assoc]
    exact keyFill_follows h fun kb t ht =>
      writeChunk_follows (xorBytes ib kb) cnt herr fun cnt' w hw => hok cnt' w (ht.trans hw)

section
variable {src : KeySource} {cnt : Nat} {next : Except State (List Byte × Bool × State) → Option State} {s : State}

/-- One symbol of a chunk: `IoErr` faults, `End` closes the chunk, and a data byte is left to be followed. -/
theorem readChunk_succ_follows {room : Nat} {ib : List Byte} (herr : ∀ t, next (.error t) = some t)
    (hok : ∀ ib' last' t, (ib' = [] → last' = true) → t.build = s.build → t.ports.din.length < s.ports.din.length →
      Follows (chunkRead src cnt ib' last' t) (next (.ok (ib', last', t))))
    (hdata : ∀ v t, t.build = s.build → t.ports.din.length < s.ports.din.length →
      Follows (readSymbol src cnt ib (.data v) t) ((Ref.readChunk room (ib ++ [v]) t).bind next)) :
    Follows (s.wait (.read src cnt ib)) ((Ref.readChunk (room + 1) ib s).bind next) := by
  rw [Ref.readChunk, Option.bind_assoc]
  refine .read fun d t ht => ?_
  obtain ⟨hb, hlen⟩ := takeDin_length ht
  cases d with
  | ioErr => exact .raised_to (herr _)
  | endFrame => exact hok ib true t (fun _ => rfl) hb (by omega)
  | data v => exact hdata v t hb (by omega)

theorem readChunk_follows (room : Nat) (ib : List Byte) (hroom : ib.length + (room + 1) = s.build.chunk)
    (herr : ∀ t, next (.error t) = some t)
    (hok : ∀ ib' last' t, (ib' = [] → last' = true) → t.build = s.build → t.ports.din.length < s.ports.din.length →
      Follows (chunkRead src cnt ib' last' t) (next (.ok (ib', last', t)))) :
    Follows (s.wait (.read src cnt ib)) ((Ref.readChunk (room + 1) ib s).bind next) := by
  induction room generalizing ib s with
  | zero =>
    refine readChunk_succ_follows herr hok fun v t hb hd => ?_
    have hfull := hok (ib ++ [v]) false t (by simp) hb hd
    rw [chunkRead, if_neg (by simp)] at hfull
    rw [readSymbol, hb, if_neg (by omega)]
    exact hfull
  | succ room ih =>
    refine readChunk_succ_follows herr hok fun v t hb hd => ?_
    rw [readSymbol, hb, if_pos (by omega)]
    exact ih (ib ++ [v]) (by rw [List.length_append, List.length_singleton, hb]; omega) fun ib' last' w hi hw hwd =>
      hok ib' last' w hi (hw.trans hb) (hwd.trans hd)

end

end

theorem streamLoop_follows (src : KeySource) (k cnt : Nat) (s : State) (hc : 1 ≤ s.build.chunk)
    (hk : s.ports.din.length ≤ k) : Follows (s.wait (.read src cnt [])) (Ref.streamLoop src k cnt s) := by
  induction k generalizing cnt s with
  | zero =>
    have hd : s.ports.din = [] := List.length_eq_zero_iff.1 (Nat.le_zero.1 hk)
    exact run_wait_in_vain hd
  | succ k ih =>
    obtain ⟨room, hroom⟩ : ∃ room, s.build.chunk = room + 1 := Nat.exists_eq_add_one.2 hc
    rw [Ref.streamLoop, hroom]
    refine readChunk_follows room [] (by rw [hroom]; exact Nat.zero_add _) (fun _ => rfl) fun ib last t hib hb hd => ?_
    refine processChunk_follows hib (fun _ => rfl) fun cnt' v hv => .ite (fun _ => .responded .none cnt' v) fun _ => ?_
    exact ih cnt' v (by rw [hv.build, hb]; exact hc) (by rw [hv.din]; omega)

/-! ## The commands -/

section
variable {s : State}

/-- In WARMED and RUNNING a command that produces bytes passes the checks of R251. -/
theorem guarded_runs_producing {i : Instr} {body : State → State} (hp : s.regs.phase.producing = true)
    (hi : i.wellFormed = true) (hl : legalIn i = Phase.producing) : guarded i body s = .next (body s) := by
  have hlegal : legalIn i s.regs.phase = true := by rw [hl]; exact hp
  exact guarded_runs (ne_fault_of_legalIn hlegal) hi hlegal

theorem exec_genb_producing (hp : s.regs.phase.producing = true) : exec .genb s = .next (startByte .genb s).run := by
  rw [exec, execGenb, guarded_runs_producing hp rfl rfl]

theorem exec_fill_producing (len : Imm) (hp : s.regs.phase.producing = true) :
    exec (.fill len) s = .next (fillNext len.toNat 0 s).run := by
  rw [exec, execFill, guarded_runs_producing hp rfl rfl]

theorem exec_xstream_producing (hp : s.regs.phase.producing = true) :
    exec .xstream s = .next (s.wait (.read .int 0 [])).run :=
  guarded_runs_producing (i := .xstream) hp rfl rfl

theorem exec_xstreamx_unfaulted (hp : s.regs.phase ≠ .fault) :
    exec .xstreamx s = .next (s.wait (.read .ext 0 [])).run :=
  guarded_runs hp rfl (Phase.unfaulted_iff.2 hp)

theorem exec_seedraw_validated (hp : s.regs.phase = .idle) (hv : validate s.build s.regs = .none) :
    exec .seedraw s = .next ((s.withRegs { s.regs with grid := [] }).wait (.seedRaw 0)).run :=
  guarded_validated_runs hp ((validate_eq_none_iff _ _).1 hv) rfl rfl

end

/-- A command that runs from a state that follows the pseudocode does what the pseudocode does. -/
theorem Follows.of_next {e : Host.Outcome State Fault Refusal} {s : State} {o : Option State} (h : Follows s o)
    (he : e = .next s.run) : (∀ t, o = some t → e = .next t) ∧ (o = none → ∃ t, e = .next t ∧ t.job ≠ none) :=
  ⟨fun _ ht => he.trans (congrArg _ (h.of_eq_some ht)), fun hn => ⟨s.run, he, h.waits hn⟩⟩

/-- Settles O53: each command runs from where its pseudocode begins. -/
theorem resumableCommandsFollowThePseudocode : Obligations.ResumableCommandsFollowThePseudocode := by
  intro s hc
  refine ⟨fun hp => ⟨?genb, fun len => ?fill, ?xstream⟩, fun hp => ?xstreamx, fun hp hv => ?seedraw⟩
  case genb => exact (genb_follows s).of_next (exec_genb_producing hp)
  case fill => exact (fill_follows len.toNat 0 s).of_next (exec_fill_producing len hp)
  case xstream => exact (streamLoop_follows .int _ 0 s hc le_rfl).of_next (exec_xstream_producing hp)
  case xstreamx => exact (streamLoop_follows .ext _ 0 s hc le_rfl).of_next (exec_xstreamx_unfaulted hp)
  case seedraw => exact (seedRaw_follows _ 0 _ rfl).of_next (exec_seedraw_validated hp hv)

end Sys2Proof.Machine
end

section
/-! PROOFS. The generator's micro-operations (spec/43_generator.md R168 to R175): a generation cell by cell, the cells
of an extraction, the one cell that each grid write of `Enhance` touches, and the registers after a number of bytes. -/

namespace Sys2Proof.Machine

/-! ## A generation, cell by cell (R168) -/

theorem cell_rotate {g : List Bool} {k i : Nat} (h : i < g.length) :
    cell (g.rotate k) i = cell g ((i + k) % g.length) := by
  rw [cell_of_lt (by rwa [List.length_rotate]), List.getElem_rotate, cell_of_lt (Nat.mod_lt _ (by omega))]

/-- The left neighbour is one cell back, cyclic (R62). -/
theorem cell_leftNeighbours {g : List Bool} {i : Nat} (h : i < g.length) :
    cell (leftNeighbours g) i = cell g ((i + g.length - 1) % g.length) := by
  rw [leftNeighbours, cell_rotate h, Nat.add_sub_assoc (by omega)]

/-- The right neighbour is one cell on, cyclic (R62). -/
theorem cell_rightNeighbours {g : List Bool} {i : Nat} (h : i < g.length) :
    cell (rightNeighbours g) i = cell g ((i + 1) % g.length) := cell_rotate h

theorem cell_evolveCells (rule : Byte) {g : List Bool} {i : Nat} (h : i < g.length) :
    cell (evolveCells rule g) i =
      ruleEval (cell g ((i + g.length - 1) % g.length)) (cell g i) (cell g ((i + 1) % g.length)) rule := by
  have hleft : i < (leftNeighbours g).length := by rwa [leftNeighbours, List.length_rotate]
  have hright : i < (rightNeighbours g).length := by rwa [rightNeighbours, List.length_rotate]
  rw [← cell_leftNeighbours h, ← cell_rightNeighbours h, cell_of_lt (by rwa [evolveCells_length]), cell_of_lt hleft,
    cell_of_lt h, cell_of_lt hright]
  simp only [evolveCells, List.getElem_map, List.getElem_zip]

/-- The cursor is less than 256, so it fits its register. -/
theorem evolve_cur_toNat {r : Regs} (hpos : 1 ≤ r.rlen.toNat) (hle : r.rlen.toNat ≤ 256) :
    (evolve r).cur.toNat = (r.cur.toNat + 1) % r.rlen.toNat := by
  have hlt : (r.cur.toNat + 1) % r.rlen.toNat < r.rlen.toNat := Nat.mod_lt _ hpos
  rw [evolve_cur, BitVec.toNat_ofNat, Nat.mod_eq_of_lt (by omega)]

/-- Settles O33: the grid and the cursor are all that a generation writes. -/
theorem evolveComputesEveryCell : Obligations.EvolveComputesEveryCell := by
  intro r _ hg hpos hle
  refine ⟨(evolve r).grid, (evolve r).cur, rfl, evolve_cur_toNat hpos hle, ?_, fun i hi => ?_⟩
  · rw [evolve_grid, evolveCells_length, hg]
  · rw [evolve_grid, cell_evolveCells _ (hg.symm ▸ hi), hg]

/-! ## Extraction (R171) -/

/-- Bits weighted with the powers of two make up the number with those bits. -/
theorem sum_weighted_bits {n : Nat} (f : Fin n → Bool) :
    ((List.finRange n).map fun b => (f b).toNat * 2 ^ b.val).sum = Nat.ofBits f := by
  induction n with
  | zero => rfl
  | succ n ih =>
    have hshift : ∀ b : Fin n, (f b.succ).toNat * 2 ^ b.succ.val = 2 * ((f b.succ).toNat * 2 ^ b.val) := fun b => by
      rw [Fin.val_succ, pow_succ]; ring
    rw [List.finRange_succ, List.map_cons, List.sum_cons, List.map_map, Function.comp_def, Nat.ofBits_succ, ← ih]
    simp only [hshift, List.sum_map_mul_left, Function.comp_apply, Fin.val_zero, pow_zero, mul_one]
    exact Nat.add_comm _ _

/-- Slot `b` supplies bit `b` of the byte (R64). -/
theorem extractByte_getLsbD (r : Regs) (b : Fin 8) :
    (extractByte r).getLsbD b.val = cell r.grid (r.extractIndex b) := by
  rw [extractByte, sum_weighted_bits fun b => cell r.grid (r.extractIndex b), BitVec.getLsbD_ofNat,
    Nat.testBit_ofBits_lt _ _ b.isLt, decide_eq_true b.isLt, Bool.true_and]

theorem extractIndex_formula {r : Regs} (h : r.xmode = false) (b : Fin 8) :
    r.extractIndex b = (r.kacc.toNat + r.c2.toNat * b.val) % r.n := if_neg (by simp [h])

theorem extractIndex_distributed {r : Regs} (h : r.xmode = true) (b : Fin 8) : r.extractIndex b = (r.xi[b]).toNat :=
  if_pos h

/-- A valid configuration reads inside the grid, in either mode. -/
theorem extractIndex_lt {bld : Build} {r : Regs} (h : ConfigOk bld r) (b : Fin 8) : r.extractIndex b < r.n := by
  obtain ⟨⟨hn, -⟩, -, -, hxi⟩ := h
  cases hx : r.xmode with
  | false =>
    rw [extractIndex_formula hx]
    exact Nat.mod_lt _ (by omega)
  | true =>
    rw [extractIndex_distributed hx]
    exact hxi hx b

/-- Settles O34: the two modes are the two branches, and the byte has the slots' cells as its bits. -/
theorem extractionReadsTheSlotsCells : Obligations.ExtractionReadsTheSlotsCells := fun r b =>
  ⟨fun h => extractIndex_formula h b, fun h => extractIndex_distributed h b, fun _ h => extractIndex_lt h b,
    extractByte_getLsbD r b⟩

/-! ## The grid writes of `Enhance` (R175) -/

theorem cell_set {g : List Bool} {j i : Nat} (v : Bool) (h : i < g.length) :
    cell (g.set j v) i = if i = j then v else cell g i := by
  rw [cell_of_lt (by rwa [List.length_set]), List.getElem_set, cell_of_lt h]
  exact if_congr eq_comm rfl rfl

theorem cell_flipCell {d : Word} {r : Regs} {i : Nat} (h : i < r.grid.length) :
    cell (flipCell d r).grid i = if i = r.drawnIndex d then !cell r.grid i else cell r.grid i := by
  rw [flipCell_grid, cell_set _ h]
  split
  · next hi => rw [hi]
  · rfl

theorem cell_trialCell {d : Word} {r : Regs} {i : Nat} (h : i < r.grid.length) :
    cell (trialCell d r).grid i =
      if i = r.drawnIndex d then (cell r.grid i ^^ cell r.grid (r.oppositeIndex i)) else cell r.grid i := by
  rw [trialCell_grid, cell_set _ h]
  split
  · next hi => rw [hi]
  · rfl

/-- Settles O38: each write sets the drawn cell, and no other. -/
theorem enhanceWritesOneCell : Obligations.EnhanceWritesOneCell := by
  intro r d i hg hi
  have hlt : i < r.grid.length := hg.symm ▸ hi
  exact ⟨cell_flipCell hlt, cell_trialCell hlt⟩

/-! ## Warm-up (R177) -/

/-- After evolutions from the cursor 0, the cursor has been advanced modulo `RLEN`. -/
theorem evolveTimes_cur_of_zero {r : Regs} (k : Nat) (hcur : r.cur = 0#8) (hpos : 1 ≤ r.rlen.toNat)
    (hle : r.rlen.toNat ≤ 256) : (evolveTimes k r).cur.toNat = k % r.rlen.toNat := by
  have hzero : r.cur.toNat = 0 := by rw [hcur]; rfl
  rw [evolveTimes_cur k r (by omega) hle, hzero, Nat.zero_add]

/-- Evolutions write the grid and the cursor, and nothing else. -/
theorem evolveTimes_eq (k : Nat) (r : Regs) :
    evolveTimes k r = { r with grid := (evolveTimes k r).grid, cur := (evolveTimes k r).cur } := by
  induction k generalizing r with
  | zero => rfl
  | succ k ih => rw [evolveTimes_succ, ih (evolve r)]; rfl

/-- Settles O35: SEEDED allows `WARMUP`, which is `WARM` evolutions and a write of the phase. -/
theorem warmupEvolvesWarmTimes : Obligations.WarmupEvolvesWarmTimes := by
  intro s hp hcur hpos hle
  have hlegal : legalIn .warmup s.regs.phase = true := Phase.isSeeded_iff.2 hp
  refine ⟨(evolveTimes s.regs.warm.toNat s.regs).grid, (evolveTimes s.regs.warm.toNat s.regs).cur, ?_, rfl,
    evolveTimes_cur_of_zero _ hcur hpos hle⟩
  rw [exec, execWarmup, guarded_runs (ne_fault_of_legalIn hlegal) rfl hlegal, evolveTimes_eq]
  rfl

/-! ## The registers after a number of bytes (R172, R181) -/

/-- One byte advances the accumulator by `C1` (R176). -/
theorem genStep_kacc_toNat {r : Regs} (hn : 1 ≤ r.n) :
    (genStep r).kacc.toNat = (r.kacc.toNat + r.c1.toNat) % r.n := by
  have hlt : (r.kacc.toNat + r.c1.toNat) % r.n < r.n := Nat.mod_lt _ hn
  have hsize : r.n < 2 ^ 20 := r.size.isLt
  rw [genStep, afterByte_kacc, BitVec.toNat_ofNat, evolveTimes_kacc, evolveTimes_c1, evolveTimes_n,
    Nat.mod_eq_of_lt (by omega)]

theorem genStep_cur_toNat {r : Regs} (hcur : r.cur.toNat < r.rlen.toNat) (hle : r.rlen.toNat ≤ 256) :
    (genStep r).cur.toNat = (r.cur.toNat + r.ipb.toNat) % r.rlen.toNat := evolveTimes_cur _ r hcur hle

/-- What one byte keeps, many keep. -/
theorem genStep_keeps {α : Type} (f : Regs → α) (h : ∀ r, f (genStep r) = f r) (k : Nat) (r : Regs) :
    f (genStep^[k] r) = f r := by
  induction k generalizing r with
  | zero => rfl
  | succ k ih => rw [Function.iterate_succ_apply, ih, h]

@[simp] theorem genStep_n (r : Regs) : (genStep r).n = r.n := evolveTimes_n _ r
@[simp] theorem genStep_c1 (r : Regs) : (genStep r).c1 = r.c1 := evolveTimes_c1 _ r
@[simp] theorem genStep_c2 (r : Regs) : (genStep r).c2 = r.c2 := evolveTimes_c2 _ r
@[simp] theorem genStep_ipb (r : Regs) : (genStep r).ipb = r.ipb := evolveTimes_ipb _ r
@[simp] theorem genStep_rlen (r : Regs) : (genStep r).rlen = r.rlen := evolveTimes_rlen _ r
@[simp] theorem genStep_xmode (r : Regs) : (genStep r).xmode = r.xmode := evolveTimes_xmode _ r
@[simp] theorem genStep_ent (r : Regs) : (genStep r).ent = r.ent := evolveTimes_ent _ r

theorem iterate_genStep_kacc_toNat {r : Regs} (k : Nat) (hkacc : r.kacc = 0#20) (hn : 1 ≤ r.n) :
    (genStep^[k] r).kacc.toNat = r.c1.toNat * k % r.n := by
  induction k with
  | zero => rw [Function.iterate_zero_apply, hkacc, Nat.mul_zero, Nat.zero_mod]; rfl
  | succ k ih =>
    have hnk : (genStep^[k] r).n = r.n := genStep_keeps (·.n) genStep_n k r
    have hc1 : (genStep^[k] r).c1 = r.c1 := genStep_keeps (·.c1) genStep_c1 k r
    rw [Function.iterate_succ_apply', genStep_kacc_toNat (hnk.symm ▸ hn), ih, hnk, hc1, Nat.mod_add_mod, Nat.mul_succ]

theorem iterate_genStep_cur_toNat {r : Regs} (k : Nat) (hpos : 1 ≤ r.rlen.toNat) (hle : r.rlen.toNat ≤ 256)
    (hcur : r.cur.toNat = r.warm.toNat % r.rlen.toNat) :
    (genStep^[k] r).cur.toNat = (r.warm.toNat + r.ipb.toNat * k) % r.rlen.toNat := by
  induction k with
  | zero => exact hcur
  | succ k ih =>
    have hrlen : (genStep^[k] r).rlen = r.rlen := genStep_keeps (·.rlen) genStep_rlen k r
    have hipb : (genStep^[k] r).ipb = r.ipb := genStep_keeps (·.ipb) genStep_ipb k r
    have hlt : (genStep^[k] r).cur.toNat < (genStep^[k] r).rlen.toNat := by
      rw [ih, hrlen]; exact Nat.mod_lt _ hpos
    rw [Function.iterate_succ_apply', genStep_cur_toNat hlt (hrlen.symm ▸ hle), ih, hrlen, hipb, Nat.mod_add_mod,
      Nat.mul_succ, Nat.add_assoc]

/-- Settles O37: byte by byte, and formula mode then adds `C2·b` to the accumulator. -/
theorem accountingAfterBytes : Obligations.AccountingAfterBytes := by
  intro r k hkacc hn hpos hle hcur
  have hsum := iterate_genStep_kacc_toNat k hkacc hn
  refine ⟨hsum, iterate_genStep_cur_toNat k hpos hle hcur, fun hx b => ?_⟩
  have hxk : (genStep^[k] r).xmode = false := (genStep_keeps (·.xmode) genStep_xmode k r).trans hx
  have hnk : (genStep^[k] r).n = r.n := genStep_keeps (·.n) genStep_n k r
  have hc2 : (genStep^[k] r).c2 = r.c2 := genStep_keeps (·.c2) genStep_c2 k r
  rw [extractIndex_formula hxk, hsum, hnk, hc2, Nat.mod_add_mod]

end Sys2Proof.Machine
end

section
/-! PROOFS. The commands `GENB` and `FILL` (spec/43_generator.md R175 to R179). The pseudocode of each is evaluated on
what the environment offers, and the machine follows it. -/

namespace Sys2Proof.Machine

/-! ## What the record of a port shows -/

/-- The bytes a record shows to have been accepted, the oldest first. -/
def deliveredIn (trace : List Item) : List Byte := Ports.delivered { quietPorts with trace := trace }

/-- The responses a record shows, the oldest first. -/
def responsesIn (trace : List Item) : List Word := Ports.responses { quietPorts with trace := trace }

/-- The draw requests a record shows, the oldest first. -/
def drawRequestsIn (trace : List Item) : List DrawKind := Ports.drawRequests { quietPorts with trace := trace }

theorem Ports.delivered_eq (p : Ports) : p.delivered = deliveredIn p.trace := rfl

theorem Ports.responses_eq (p : Ports) : p.responses = responsesIn p.trace := rfl

theorem Ports.drawRequests_eq (p : Ports) : p.drawRequests = drawRequestsIn p.trace := rfl

theorem deliveredIn_append (new old : List Item) : deliveredIn (new ++ old) = deliveredIn old ++ deliveredIn new := by
  simp only [deliveredIn, Ports.delivered, List.reverse_append, List.filterMap_append]

theorem responsesIn_append (new old : List Item) : responsesIn (new ++ old) = responsesIn old ++ responsesIn new := by
  simp only [responsesIn, Ports.responses, List.reverse_append, List.filterMap_append]

theorem drawRequestsIn_append (new old : List Item) :
    drawRequestsIn (new ++ old) = drawRequestsIn old ++ drawRequestsIn new := by
  simp only [drawRequestsIn, Ports.drawRequests, List.reverse_append, List.filterMap_append]

theorem sentBytes_cons (v : Byte) (bytes : List Byte) : sentBytes (v :: bytes) = sentBytes bytes ++ [.dout v .ok] := by
  simp only [sentBytes, List.reverse_cons, List.map_append, List.map_singleton]

theorem deliveredIn_sentBytes (bytes : List Byte) : deliveredIn (sentBytes bytes) = bytes := by
  induction bytes with
  | nil => rfl
  | cons v bytes ih => rw [sentBytes_cons, deliveredIn_append, ih]; rfl

theorem responsesIn_sentBytes (bytes : List Byte) : responsesIn (sentBytes bytes) = [] := by
  induction bytes with
  | nil => rfl
  | cons v bytes ih => rw [sentBytes_cons, responsesIn_append, ih]; rfl

theorem State.rsp_responses (e : Err) (v : Nat) (s : State) :
    (s.rsp e v).ports.responses = s.ports.responses ++ [respWord e v] := responsesIn_append [.rsp _] s.ports.trace

theorem State.rsp_drawRequests (e : Err) (v : Nat) (s : State) :
    (s.rsp e v).ports.drawRequests = s.ports.drawRequests :=
  (drawRequestsIn_append [.rsp (respWord e v)] s.ports.trace).trans (List.append_nil _)

/-! ## A byte with `ENT = 0` (R176) -/

/-- A byte fits the payload of a response (R101). -/
theorem respWord_byte (v : Byte) : respWord .none v.toNat = 0#24 ++ v := by
  have hlt : v.toNat < 2 ^ 24 := lt_trans v.isLt (by decide)
  rw [respWord, none_code_append_ofNat hlt]
  apply BitVec.eq_of_toNat_eq
  rw [BitVec.toNat_append, BitVec.toNat_ofNat, BitVec.toNat_ofNat, Nat.zero_mod, Nat.zero_shiftLeft, Nat.zero_or,
    Nat.mod_eq_of_lt (lt_trans hlt (by decide))]

theorem produceByte_without_entropy {s : State} (h : s.regs.ent = false) :
    Ref.produceByte s = some (genByte s.regs, s.withRegs (genStep s.regs)) := by
  have hent : s.evolved.regs.ent = false := by rwa [State.evolved_regs, evolveTimes_ent]
  rw [Ref.produceByte, Ref.inject, hent]
  rfl

theorem genb_without_entropy {s : State} (h : s.regs.ent = false) :
    Ref.genb s = some ((s.withRegs (genStep s.regs)).rsp .none (genByte s.regs).toNat) := by
  rw [Ref.genb, produceByte_without_entropy h]
  rfl

/-- The registers after a byte: `IPB` generations, the accumulator, the phase. -/
theorem genStep_eq (r : Regs) :
    genStep r =
      { evolve^[r.ipb.toNat] r with
        kacc := BitVec.ofNat 20 ((r.kacc.toNat + r.c1.toNat) % r.n), phase := .running } := by
  have hkacc : ((evolveTimes r.ipb.toNat r).kacc.toNat + (evolveTimes r.ipb.toNat r).c1.toNat) %
      (evolveTimes r.ipb.toNat r).n = (r.kacc.toNat + r.c1.toNat) % r.n := by
    rw [evolveTimes_kacc, evolveTimes_c1, evolveTimes_n]
  rw [genStep, afterByte, hkacc, evolveTimes]

/-- The generations do not move the slots. -/
theorem evolveTimes_extractIndex (k : Nat) (r : Regs) (b : Fin 8) :
    (evolveTimes k r).extractIndex b = r.extractIndex b :=
  evolveTimes_keeps (·.extractIndex b) (fun _ => rfl) k r

/-- `GENB` where its pseudocode completes. -/
theorem exec_genb_of_eq_some {s t : State} (hp : s.regs.phase.producing = true) (h : Ref.genb s = some t) :
    exec .genb s = .next t := by
  rw [exec_genb_producing hp, (genb_follows s).of_eq_some h]

/-- Settles O36: with `ENT = 0` the pseudocode asks for nothing, so it completes. -/
theorem genbProducesOneByte : Obligations.GenbProducesOneByte := by
  intro s hp hent
  refine ⟨?_, fun b => ?_⟩
  · rw [exec_genb_of_eq_some hp (genb_without_entropy hent), ← genStep_eq, ← respWord_byte]
    rfl
  · rw [genByte, extractByte_getLsbD, evolveTimes_extractIndex, evolveTimes]

/-! ## `FILL` with `ENT = 0` (R179) -/

theorem keystream_succ (k : Nat) (r : Regs) : keystream (k + 1) r = genByte r :: keystream k (genStep r) := by
  rw [keystream, List.range_succ_eq_map, List.map_cons, List.map_map]
  rfl

/-- The block `s` after `k` bytes of a `FILL` that the sink has accepted, with the answers `rest` left. -/
def State.filled (s : State) (k : Nat) (rest : List Answer) : State :=
  { s with
    regs := genStep^[k] s.regs
    ports := { s.ports with sink := rest, trace := sentBytes (keystream k s.regs) ++ s.ports.trace } }

theorem State.filled_zero (s : State) : s.filled 0 s.ports.sink = s := rfl

theorem State.filled_filled_one (s : State) (k : Nat) (mid rest : List Answer) :
    (s.filled 1 mid).filled k rest = s.filled (k + 1) rest := by
  have htrace : sentBytes (keystream (k + 1) s.regs) =
      sentBytes (keystream k (genStep s.regs)) ++ sentBytes (keystream 1 s.regs) := by
    rw [keystream_succ, sentBytes_cons]; rfl
  rw [State.filled, State.filled, State.filled, htrace, List.append_assoc]
  rfl

theorem State.filled_ent (s : State) (k : Nat) (rest : List Answer) : (s.filled k rest).regs.ent = s.regs.ent :=
  genStep_keeps (·.ent) genStep_ent k s.regs

theorem takeAnswer_of_cons {s : State} {a : Answer} {rest : List Answer} (v : Byte) (h : s.ports.sink = a :: rest) :
    s.takeAnswer v =
      some (a, { s with ports := { s.ports with sink := rest, trace := .dout v a :: s.ports.trace } }) :=
  State.takeAnswer_eq_some.2 ⟨rest, h, rfl⟩

/-- One more byte that the sink accepts. -/
theorem fill_succ_ok {s : State} {rest : List Answer} (left cnt : Nat) (hent : s.regs.ent = false)
    (hsink : s.ports.sink = .ok :: rest) : Ref.fill (left + 1) cnt s = Ref.fill left (cnt + 1) (s.filled 1 rest) := by
  rw [Ref.fill, produceByte_without_entropy hent, Option.bind_some,
    takeAnswer_of_cons (s := s.withRegs (genStep s.regs)) _ hsink]
  rfl

/-- The byte that the sink refuses has been produced (R245). -/
theorem fill_succ_ioerr {s : State} {rest : List Answer} (left cnt : Nat) (hent : s.regs.ent = false)
    (hsink : s.ports.sink = .ioerr :: rest) :
    Ref.fill (left + 1) cnt s =
      some (State.raise .io
        { s with
          regs := genStep s.regs
          ports := { s.ports with sink := rest, trace := .dout (genByte s.regs) .ioerr :: s.ports.trace } }) := by
  rw [Ref.fill, produceByte_without_entropy hent, Option.bind_some,
    takeAnswer_of_cons (s := s.withRegs (genStep s.regs)) _ hsink]
  rfl

/-- The bytes that the sink accepts, one after another. -/
theorem fill_accepted {s : State} {rest : List Answer} (k left cnt : Nat) (hent : s.regs.ent = false)
    (hsink : s.ports.sink = List.replicate k .ok ++ rest) :
    Ref.fill (k + left) cnt s = Ref.fill left (cnt + k) (s.filled k rest) := by
  induction k generalizing cnt s with
  | zero =>
    obtain rfl : s.ports.sink = rest := hsink
    rw [State.filled_zero, Nat.zero_add, Nat.add_zero]
  | succ k ih =>
    have hsink : s.ports.sink = .ok :: (List.replicate k .ok ++ rest) := hsink
    rw [Nat.add_right_comm, fill_succ_ok (k + left) cnt hent hsink,
      ih (cnt + 1) ((s.filled_ent 1 _).trans hent) rfl, State.filled_filled_one, Nat.add_assoc, Nat.add_comm 1]

/-- `FILL` where its pseudocode completes. -/
theorem exec_fill_of_eq_some {s t : State} {len : Imm} (hp : s.regs.phase.producing = true)
    (h : Ref.fill len.toNat 0 s = some t) : exec (.fill len) s = .next t := by
  rw [exec_fill_producing len hp, (fill_follows len.toNat 0 s).of_eq_some h]

/-- Settles O41: all the bytes are accepted, and the response is their number. -/
theorem fillDeliversTheKeystream : Obligations.FillDeliversTheKeystream := by
  intro len s rest hp hent hsink
  have hlen : len.toNat < 2 ^ 24 := lt_trans len.isLt (by decide)
  rw [exec_fill_of_eq_some hp (fill_accepted len.toNat 0 0 hent hsink), ← none_code_append_ofNat hlen, Nat.zero_add]
  rfl

/-- Settles O42: `k` bytes are accepted, and the next one is refused. -/
theorem fillStopsAtARefusedByte : Obligations.FillStopsAtARefusedByte := by
  intro len k s rest hp hent hk hsink
  obtain ⟨left, hleft⟩ : ∃ left, len.toNat = k + (left + 1) := ⟨len.toNat - (k + 1), by omega⟩
  have hrun := fill_accepted k (left + 1) 0 hent hsink
  rw [← hleft, fill_succ_ioerr left _ ((s.filled_ent k _).trans hent) rfl] at hrun
  refine ⟨_, exec_fill_of_eq_some hp hrun, rfl, ?regs, rfl, ?delivered, ?responses⟩
  case regs => rw [Function.iterate_succ_apply']; rfl
  case delivered =>
    rw [Ports.delivered_eq, Ports.delivered_eq]
    show deliveredIn ([_, _] ++ (sentBytes _ ++ _)) = _
    rw [deliveredIn_append, deliveredIn_append, deliveredIn_sentBytes]
    exact List.append_nil _
  case responses =>
    rw [Ports.responses_eq, Ports.responses_eq]
    show responsesIn ([_, _] ++ (sentBytes _ ++ _)) = _
    rw [responsesIn_append, responsesIn_append, responsesIn_sentBytes, List.append_nil]
    rfl

/-! ## Draws (R104, R175) -/

/-- The block `s` after one draw of kind `k`, answered by `d`, with the answers `rest` left. -/
def State.drawn (s : State) (k : DrawKind) (d : Word) (rest : List Word) : State :=
  { s with ports := { s.ports with drw := rest, trace := .drw d :: .drq k :: s.ports.trace } }

theorem draw_of_cons {s : State} {d : Word} {rest : List Word} (k : DrawKind) (h : s.ports.drw = d :: rest) :
    Ref.draw k s = some (d, s.drawn k d rest) := State.takeDraw_eq_some.2 ⟨rest, h, rfl⟩

/-- From `s` to `t` exactly the draws `kinds` have been requested, in order, and answered, with the answers `rest` left;
nothing has been answered on `RSP`. -/
structure Draws (kinds : List DrawKind) (rest : List Word) (s t : State) : Prop where
  requests : t.ports.drawRequests = s.ports.drawRequests ++ kinds
  responses : t.ports.responses = s.ports.responses
  drw : t.ports.drw = rest

theorem Draws.none (s : State) : Draws [] s.ports.drw s s := ⟨(List.append_nil _).symm, rfl, rfl⟩

theorem Draws.one (s : State) (k : DrawKind) (d : Word) (rest : List Word) : Draws [k] rest s (s.drawn k d rest) where
  requests := drawRequestsIn_append [.drw d, .drq k] s.ports.trace
  responses := (responsesIn_append [.drw d, .drq k] s.ports.trace).trans (List.append_nil _)
  drw := rfl

theorem Draws.withRegs {kinds : List DrawKind} {rest : List Word} {s t : State} (h : Draws kinds rest s t) (r : Regs) :
    Draws kinds rest s (t.withRegs r) := ⟨h.requests, h.responses, h.drw⟩

theorem Draws.trans {kinds kinds' : List DrawKind} {rest rest' : List Word} {s t u : State} (h : Draws kinds rest s t)
    (k : Draws kinds' rest' t u) : Draws (kinds ++ kinds') rest' s u where
  requests := by rw [k.requests, h.requests, List.append_assoc]
  responses := k.responses.trans h.responses
  drw := k.drw

/-! ## `Enhance` on the answers it needs (R175) -/

theorem trials_of_answers (trials : List Word) {s : State} {rest : List Word} (h : s.ports.drw = trials ++ rest) :
    ∃ t, Ref.trials trials.length s = some t ∧ t.regs = trials.foldl (fun r d => trialCell d r) s.regs ∧
      Draws (trials.map fun _ => .index) rest s t := by
  induction trials generalizing s with
  | nil => exact ⟨s, rfl, rfl, (show s.ports.drw = rest from h) ▸ .none s⟩
  | cons d ds ih =>
    obtain ⟨t, ht, hregs, hdraws⟩ := ih (s := (s.drawn .index d (ds ++ rest)).withRegs (trialCell d s.regs)) rfl
    refine ⟨t, ?_, hregs, ((Draws.one s .index d _).withRegs _).trans hdraws⟩
    rw [List.length_cons, Ref.trials, draw_of_cons .index h]
    exact ht

theorem flip_of_answers (gate : Word) {flips : List Word} {s : State} {rest : List Word}
    (hlen : flips.length = if gate.getLsbD 0 then 1 else 0) (h : s.ports.drw = flips ++ rest) :
    ∃ t, Ref.flip gate s = some t ∧ t.regs = flips.foldl (fun r d => flipCell d r) s.regs ∧
      Draws (flips.map fun _ => .index) rest s t := by
  unfold Ref.flip
  split
  · next hgate =>
    obtain ⟨d, rfl⟩ := List.length_eq_one_iff.1 (hlen.trans (if_pos hgate))
    rw [draw_of_cons .index h]
    exact ⟨_, rfl, rfl, (Draws.one s .index d rest).withRegs _⟩
  · next hgate =>
    obtain rfl := List.length_eq_zero_iff.1 (hlen.trans (if_neg hgate))
    exact ⟨s, rfl, rfl, (show s.ports.drw = rest from h) ▸ .none s⟩

theorem foldl_flipCell_n (flips : List Word) (r : Regs) : (flips.foldl (fun r d => flipCell d r) r).n = r.n := by
  induction flips generalizing r with
  | nil => rfl
  | cons d ds ih => rw [List.foldl_cons, ih, flipCell_n]

theorem enhance_of_answers {g1 : Word} {flips trials rest : List Word} {s : State}
    (h : s.ports.drw = g1 :: (flips ++ (trials ++ rest))) (hflips : flips.length = if g1.getLsbD 0 then 1 else 0)
    (htrials : trials.length = s.regs.trials) :
    ∃ t, Ref.enhance s = some t ∧
      t.regs = trials.foldl (fun r d => trialCell d r) (flips.foldl (fun r d => flipCell d r) s.regs) ∧
      Draws (.gate1 :: (flips.map (fun _ => .index) ++ trials.map fun _ => .index)) rest s t := by
  obtain ⟨t, ht, htregs, htdraws⟩ :=
    flip_of_answers g1 (s := s.drawn .gate1 g1 (flips ++ (trials ++ rest))) hflips rfl
  obtain ⟨u, hu, huregs, hudraws⟩ := trials_of_answers trials htdraws.drw
  have hleft : t.regs.trials = trials.length := by
    rw [htrials, Regs.trials, Regs.trials, htregs, foldl_flipCell_n]
    rfl
  refine ⟨u, ?_, by rw [huregs, htregs]; rfl, (Draws.one s .gate1 g1 _).trans (htdraws.trans hudraws)⟩
  rw [Ref.enhance, draw_of_cons .gate1 h, Option.bind_some, ht, Option.bind_some, hleft, hu]

/-! ## `GENB` with `ENT = 1` (R176, R178) -/

/-- `GENB` answers the byte that is extracted when the injection is through. -/
theorem genb_of_inject {s t : State} (h : Ref.inject s.evolved = some t) :
    Ref.genb s = some (t.produced.rsp .none (extractByte t.regs).toNat) := by
  rw [Ref.genb, Ref.produceByte, h]
  rfl

theorem inject_of_draw {s : State} {g2 : Word} {rest : List Word} (hent : s.regs.ent = true)
    (h : s.ports.drw = g2 :: rest) :
    Ref.inject s =
      if g2.getLsbD 0 then Ref.enhance (s.drawn .gate2 g2 rest) else some (s.drawn .gate2 g2 rest) := by
  rw [Ref.inject, if_pos hent, draw_of_cons .gate2 h]
  rfl

/-- Settles O39: a closed gate leaves the evolved grid; an open one leaves what the flip and the trials made of it. -/
theorem genbWithEntropyInjection : Obligations.GenbWithEntropyInjection := by
  intro s g2 g1 flips trials rest hp hent
  have hent : s.evolved.regs.ent = true := by rwa [State.evolved_regs, evolveTimes_ent]
  refine ⟨fun hdrw hclosed => ?closed, fun hdrw hopen hflips htrials => ?opened⟩
  case closed =>
    have hinject : Ref.inject s.evolved = some (s.evolved.drawn .gate2 g2 rest) := by
      rw [inject_of_draw hent hdrw, if_neg (hclosed ▸ Bool.false_ne_true)]
    rw [exec_genb_of_eq_some hp (genb_of_inject hinject), ← respWord_byte]
    rfl
  case opened =>
    have hdrw : s.evolved.ports.drw = g2 :: g1 :: (flips ++ (trials ++ rest)) := by
      rw [State.evolved_ports, hdrw]; simp
    have htrials : trials.length = s.evolved.regs.trials := by
      rw [htrials, Regs.trials, State.evolved_regs, evolveTimes_n]
    obtain ⟨t, ht, hregs, hdraws⟩ :=
      enhance_of_answers (s := s.evolved.drawn .gate2 g2 (g1 :: (flips ++ (trials ++ rest)))) rfl hflips htrials
    have hall := (Draws.one s.evolved .gate2 g2 _).trans hdraws
    have hinject : Ref.inject s.evolved = some t := by rw [inject_of_draw hent hdrw, if_pos hopen, ht]
    refine ⟨_, exec_genb_of_eq_some hp (genb_of_inject hinject), rfl, ?regs, hall.drw, ?responses, ?requests⟩
    case regs => rw [State.rsp_regs, State.produced_regs, hregs]; rfl
    case responses => rw [State.rsp_responses, State.produced_ports, hall.responses, hregs, respWord_byte]; rfl
    case requests =>
      rw [State.rsp_drawRequests, State.produced_ports, hall.requests]
      simp only [State.evolved_ports, List.append_assoc, List.cons_append, List.nil_append]

end Sys2Proof.Machine
end

section
/-! PROOFS. The transitions of `PHASE` (spec/43_generator.md R165, R166). A command in progress can bring the block into
one new phase, which its wait tells, or into FAULT; every other command writes the phase at most once. So the commands
that change the phase are a short table, `PhaseCause`, and a step is one of them or a reset. -/

namespace Sys2Proof.Machine

/-! ## The phase that a command in progress brings -/

/-- A stream on the internal keystream produces bytes; one on an external keystream leaves the phase (R193, R194). -/
def KeySource.enters : KeySource → Option Phase
  | .int => some .running
  | .ext => none

/-- The phase, if any, that the command in progress brings the block into if it does not fault. -/
def Job.enters : Job → Option Phase
  | .seedRaw _ => some .seeded
  | .draw _ _ => some .running
  | .fillOut _ _ _ => some .running
  | .read src _ _ => src.enters
  | .keyIn _ _ _ _ => none
  | .write src _ _ _ _ => src.enters

/-- The phase is `p`, or the phase `e` that is to be entered. -/
def Within (p : Phase) (e : Option Phase) (r : Regs) : Prop := r.phase = p ∨ e = some r.phase

/-- A command that began in the phase `p` and enters `e` is in one of the two, or has faulted; and its wait says so. -/
structure Proceeds (p : Phase) (e : Option Phase) (s : State) : Prop where
  phase : Within p e s.regs ∨ (s.regs.phase = .fault ∧ s.job = none)
  job : ∀ j ∈ s.job, j.enters = e

section
variable {p : Phase} {e : Option Phase} {s : State}

theorem Within.of_phase_eq {r q : Regs} (h : Within p e r) (hq : q.phase = r.phase) : Within p e q := by
  rwa [Within, hq]

theorem rsp_proceeds (h : Within p e s.regs) (c : Err) (v : Nat) : Proceeds p e (s.rsp c v) := ⟨.inl h, nofun⟩

theorem raise_proceeds (c : Err) (s : State) : Proceeds p e (s.raise c) := ⟨.inr ⟨rfl, rfl⟩, nofun⟩

theorem wait_proceeds (h : Within p e s.regs) {j : Job} (hj : j.enters = e) : Proceeds p e (s.wait j) :=
  ⟨.inl h, fun _ hi => Option.some.inj hi ▸ hj⟩

theorem ask_proceeds (h : Within p (some .running) s.regs) (k : DrawKind) (q : DrawPoint) (u : ByteUse) :
    Proceeds p (some .running) (s.ask k q u) := wait_proceeds (s := s.emit (.drq k)) h rfl

theorem evolved_within (h : Within p e s.regs) : Within p e s.evolved.regs := h.of_phase_eq (by simp)

theorem seedRawSymbol_proceeds (h : Within p (some .seeded) s.regs) (cnt : Nat) (d : Symbol) :
    Proceeds p (some .seeded) (seedRawSymbol cnt d s) := by
  cases d with
  | ioErr => exact raise_proceeds _ s
  | endFrame =>
    unfold seedRawSymbol; simp only []; split
    · exact raise_proceeds _ s
    · exact ⟨.inl (.inr rfl), nofun⟩
  | data v =>
    unfold seedRawSymbol; simp only []; split
    · exact wait_proceeds (s := s.withRegs (loadCells v s.regs)) h rfl
    · exact wait_proceeds h rfl

theorem streamOffer_proceeds {src : KeySource} (h : Within p src.enters s.regs) (cnt : Nat) (last : Bool)
    (bytes : List Byte) : Proceeds p src.enters (streamOffer src cnt last bytes s) := by
  cases bytes with
  | cons v rest => exact wait_proceeds h rfl
  | nil =>
    unfold streamOffer; simp only []; split
    · exact rsp_proceeds h _ _
    · exact wait_proceeds h rfl

theorem keyBytes_proceeds (h : Within p (some .running) s.regs) (cnt : Nat) (last : Bool) (ib : List Byte) (left : Nat)
    (kb : List Byte) : Proceeds p (some .running) (keyBytes cnt last ib left kb s) := by
  induction left generalizing kb s with
  | zero => exact streamOffer_proceeds (src := .int) h _ _ _
  | succ left ih =>
    unfold keyBytes; split
    · exact ask_proceeds (evolved_within h) _ _ _
    · exact ih (s := s.evolved.produced) (.inr rfl) _

/-- Finishing a byte enters RUNNING, from whatever phase (R176). -/
theorem finishByte_proceeds (u : ByteUse) (s : State) : Proceeds p (some .running) (finishByte u s) := by
  have hrunning : Within p (some .running) s.produced.regs := .inr rfl
  cases u with
  | genb => exact rsp_proceeds hrunning _ _
  | fill left cnt => exact wait_proceeds hrunning rfl
  | key left cnt last ib kb => exact keyBytes_proceeds hrunning _ _ _ _ _

theorem startByte_proceeds (h : Within p (some .running) s.regs) (u : ByteUse) :
    Proceeds p (some .running) (startByte u s) := by
  unfold startByte; split
  · exact ask_proceeds (evolved_within h) _ _ _
  · exact finishByte_proceeds u s.evolved

theorem nextTrial_proceeds (h : Within p (some .running) s.regs) (u : ByteUse) (left : Nat) :
    Proceeds p (some .running) (nextTrial u left s) := by
  cases left with
  | zero => exact finishByte_proceeds u s
  | succ left => exact ask_proceeds h _ _ _

theorem drawAnswer_proceeds (h : Within p (some .running) s.regs) (q : DrawPoint) (u : ByteUse) (d : Word) :
    Proceeds p (some .running) (drawAnswer q u d s) := by
  cases q with
  | gate2 =>
    unfold drawAnswer; simp only []; split
    · exact ask_proceeds h _ _ _
    · exact finishByte_proceeds u s
  | gate1 =>
    unfold drawAnswer; simp only []; split
    · exact ask_proceeds h _ _ _
    · exact nextTrial_proceeds h u _
  | flip => exact nextTrial_proceeds (s := s.withRegs (flipCell d s.regs)) h u _
  | trial left => exact nextTrial_proceeds (s := s.withRegs (trialCell d s.regs)) h u left

theorem fillNext_proceeds (h : Within p (some .running) s.regs) (left cnt : Nat) :
    Proceeds p (some .running) (fillNext left cnt s) := by
  cases left with
  | zero => exact rsp_proceeds h _ _
  | succ left => exact startByte_proceeds h _

theorem fillAnswer_proceeds (h : Within p (some .running) s.regs) (left cnt : Nat) (a : Answer) :
    Proceeds p (some .running) (fillAnswer left cnt a s) := by
  cases a with
  | ok => exact fillNext_proceeds h _ _
  | ioerr => exact raise_proceeds _ s

theorem keyFill_proceeds {src : KeySource} (h : Within p src.enters s.regs) (cnt : Nat) (last : Bool)
    (ib : List Byte) : Proceeds p src.enters (keyFill src cnt last ib s) := by
  cases src with
  | int => exact keyBytes_proceeds h _ _ _ _ _
  | ext => exact wait_proceeds (s := s.emit _) h rfl

theorem readSymbol_proceeds {src : KeySource} (h : Within p src.enters s.regs) (cnt : Nat) (ib : List Byte)
    (d : Symbol) : Proceeds p src.enters (readSymbol src cnt ib d s) := by
  cases d with
  | ioErr => exact raise_proceeds _ s
  | endFrame =>
    unfold readSymbol; simp only []; split
    · exact rsp_proceeds h _ _
    · exact keyFill_proceeds h _ _ _
  | data v =>
    unfold readSymbol; simp only []; split
    · exact wait_proceeds h rfl
    · exact keyFill_proceeds h _ _ _

theorem keyByte_proceeds (h : Within p none s.regs) (cnt : Nat) (last : Bool) (ib kb : List Byte) (v : Byte) :
    Proceeds p none (keyByte cnt last ib kb v s) := by
  unfold keyByte; split
  · exact wait_proceeds h rfl
  · exact streamOffer_proceeds (src := .ext) h _ _ _

theorem writeAnswer_proceeds {src : KeySource} (h : Within p src.enters s.regs) (cnt : Nat) (last : Bool)
    (rest : List Byte) (a : Answer) : Proceeds p src.enters (writeAnswer src cnt last rest a s) := by
  cases a with
  | ok => exact streamOffer_proceeds (h.of_phase_eq (by rw [progress_regs])) _ _ _
  | ioerr => exact raise_proceeds _ s

theorem advance_proceeds {j : Job} {t : State} (h : Proceeds p e s) (hj : s.job = some j)
    (ha : advance j s = some t) : Proceeds p e t := by
  obtain ⟨u, hu, -, hr⟩ := advance_advancesTo ha
  have hphase : Within p e u.regs := by
    rw [hr]
    exact h.phase.resolve_right fun ⟨_, hnone⟩ => Option.some_ne_none j (hj.symm.trans hnone)
  obtain rfl : j.enters = e := h.job j hj
  cases hu with
  | seedRaw cnt d => exact seedRawSymbol_proceeds hphase cnt d
  | draw q use d => exact drawAnswer_proceeds hphase q use d
  | fillOut left cnt v a => exact fillAnswer_proceeds hphase left cnt a
  | read src cnt ib d => exact readSymbol_proceeds hphase cnt ib d
  | keyIn cnt last ib kb v => exact keyByte_proceeds hphase cnt last ib kb v
  | write src cnt last v rest a => exact writeAnswer_proceeds hphase cnt last rest a

theorem Proceeds.run (h : Proceeds p e s) : Proceeds p e s.run := State.run_keeps (Proceeds p e) advance_proceeds h

/-- A command ends up in the phase it began in, in the phase it enters, or in FAULT. -/
theorem Proceeds.cases (h : Proceeds p e s) :
    s.regs.phase = p ∨ e = some s.regs.phase ∨ (s.regs.phase = .fault ∧ s.job = none) := or_assoc.1 h.phase

end

/-! ## The commands that change the phase (R165, R166) -/

/-- The command brings the block from the one phase into the other, without a fault. -/
inductive PhaseCause : Instr → Phase → Phase → Prop
  | srst (p : Phase) : PhaseCause .srst p .idle
  | seed : PhaseCause .seed .idle .seeded
  | seedraw : PhaseCause .seedraw .idle .seeded
  | warmup : PhaseCause .warmup .seeded .warmed
  | genb : PhaseCause .genb .warmed .running
  | fill {len : Imm} (h : 1 ≤ len.toNat) : PhaseCause (.fill len) .warmed .running
  | xstream : PhaseCause .xstream .warmed .running

/-- What a command does to the phase: nothing, a fault with which it ends, or what the table says. -/
def PhaseOutcome (i : Instr) (p : Phase) (t : State) : Prop :=
  t.regs.phase = p ∨ (t.regs.phase = .fault ∧ i ≠ .srst ∧ t.job = none) ∨ PhaseCause i p t.regs.phase

/-- A command leaves the phase to an outcome. -/
def HasPhaseOutcome (i : Instr) (e : State → Host.Outcome State Fault Refusal) : Prop :=
  ∀ s t : State, e s = .next t → PhaseOutcome i s.regs.phase t

theorem raise_outcome {i : Instr} (hi : i ≠ .srst) (p : Phase) (c : Err) (s : State) : PhaseOutcome i p (s.raise c) :=
  .inr (.inl ⟨rfl, hi, rfl⟩)

theorem guarded_outcome {i : Instr} {body : State → State} (hi : i ≠ .srst)
    (hb : ∀ s, legalIn i s.regs.phase = true → PhaseOutcome i s.regs.phase (body s)) :
    HasPhaseOutcome i (guarded i body) := by
  intro s t h
  obtain ⟨-, rfl⟩ | ⟨-, -, rfl⟩ | ⟨-, -, -, rfl⟩ | ⟨-, -, hl, rfl⟩ := guarded_cases h
  · exact .inl rfl
  · exact raise_outcome hi _ _ s
  · exact raise_outcome hi _ _ s
  · exact hb s hl

/-- A guarded command that does not write the phase, but faults where an operand is out of range. -/
theorem raise_or_keep_outcome {i : Instr} {c : State → Prop} [DecidablePred c] {e : Err} {f : State → State}
    (hi : i ≠ .srst) (hf : ∀ s, (f s).regs.phase = s.regs.phase) :
    HasPhaseOutcome i (guarded i fun s => if c s then s.raise e else f s) :=
  guarded_outcome hi fun s _ => by
    split
    · exact raise_outcome hi _ e s
    · exact .inl (hf s)

theorem validated_outcome {i : Instr} {body : State → State} (hi : i ≠ .srst)
    (hb : ∀ s, legalIn i s.regs.phase = true → PhaseOutcome i s.regs.phase (body s)) :
    HasPhaseOutcome i (guarded i (validated body)) :=
  guarded_outcome hi fun s hl => by
    unfold validated; split
    · exact hb s hl
    · exact raise_outcome hi _ _ s

/-- The outcome of a run that began in the phase `p`. -/
theorem Proceeds.outcome {i : Instr} {p : Phase} {e : Option Phase} {s : State} (h : Proceeds p e s) (hi : i ≠ .srst)
    (he : ∀ q, e = some q → q = p ∨ PhaseCause i p q) : PhaseOutcome i p s.run := by
  obtain hp | hq | ⟨hfault, hjob⟩ := h.run.cases
  · exact .inl hp
  · exact (he _ hq).imp_right .inr
  · exact .inr (.inl ⟨hfault, hi, hjob⟩)

/-- A command that produces bytes runs in WARMED or RUNNING, and can only enter RUNNING. -/
theorem Proceeds.outcome_of_producing {i : Instr} {p : Phase} {s : State} (h : Proceeds p (some .running) s)
    (hi : i ≠ .srst) (hp : p.producing = true) (hcause : PhaseCause i .warmed .running) : PhaseOutcome i p s.run :=
  h.outcome hi fun q hq => by
    obtain rfl := Option.some.inj hq
    obtain rfl | rfl := Phase.producing_iff.1 hp
    · exact .inr hcause
    · exact .inl rfl

theorem readRegister_outcome (num : Imm) (s : State) : PhaseOutcome (.rdreg num) s.regs.phase (readRegister num s) := by
  unfold readRegister
  cases s.register num.toNat with
  | some v => exact .inl rfl
  | none =>
    rw [Option.elim_none]
    split
    · exact .inl rfl
    · exact raise_outcome (i := .rdreg num) nofun _ _ s

/-- `FILL 0` ends before any byte; a longer one produces bytes (R179). -/
theorem fill_outcome {len : Imm} {s : State} (hp : s.regs.phase.producing = true) :
    PhaseOutcome (.fill len) s.regs.phase (fillNext len.toNat 0 s).run := by
  obtain hlen | hlen := Nat.eq_zero_or_pos len.toNat
  · rw [hlen, fillNext, State.run_idle rfl]
    exact .inl rfl
  · exact (fillNext_proceeds (.inl rfl) _ _).outcome_of_producing nofun hp (.fill hlen)

theorem exec_outcome (i : Instr) : HasPhaseOutcome i (exec i) := by
  cases i with
  | srst => exact fun s t h => .inr (.inr (Host.Outcome.next.inj h ▸ .srst _))
  | nop | setn | rsclr | setc1 | setc2 | setipb | setwarm | setmode | setxi | mix | reval | revalc =>
    exact guarded_outcome nofun fun _ _ => .inl rfl
  | rspush | setdlen | lddig | rdcell => exact raise_or_keep_outcome nofun fun _ => rfl
  | seed => exact validated_outcome nofun fun s hl => .inr (.inr (Phase.isIdle_iff.1 hl ▸ .seed))
  | seedraw =>
    exact validated_outcome nofun fun s hl =>
      (wait_proceeds (s := s.withRegs { s.regs with grid := [] }) (.inl rfl) rfl).outcome nofun fun q hq =>
        .inr (Option.some.inj hq ▸ Phase.isIdle_iff.1 hl ▸ .seedraw)
  | warmup => exact guarded_outcome nofun fun s hl => .inr (.inr (Phase.isSeeded_iff.1 hl ▸ .warmup))
  | genb =>
    exact guarded_outcome nofun fun s hl => (startByte_proceeds (.inl rfl) _).outcome_of_producing nofun hl .genb
  | fill len => exact guarded_outcome nofun fun s hl => fill_outcome hl
  | xstream =>
    exact guarded_outcome nofun fun s hl =>
      Proceeds.outcome_of_producing (wait_proceeds (.inl rfl) rfl) nofun hl .xstream
  | xstreamx =>
    exact guarded_outcome nofun fun s _ =>
      Proceeds.outcome (e := none) (wait_proceeds (.inl rfl) rfl) nofun fun _ hq => nomatch hq
  | rdreg num =>
    exact fun s t h => Host.Outcome.next.inj ((execRdreg_eq num s).symm.trans h) ▸ readRegister_outcome num s

/-- The table of causes, read by the phase that is entered. -/
theorem PhaseCause.by_phase {i : Instr} {p q : Phase} (h : PhaseCause i p q) :
    (q = .idle → i = .srst) ∧ (q = .seeded → p = .idle ∧ (i = .seed ∨ i = .seedraw)) ∧
      (q = .warmed → p = .seeded ∧ i = .warmup) ∧
      (q = .running → p = .warmed ∧ (i = .genb ∨ (∃ len, 1 ≤ len.toNat ∧ i = .fill len) ∨ i = .xstream)) ∧
      q ≠ .fault := by
  cases h with
  | srst => exact ⟨fun _ => rfl, nofun, nofun, nofun, nofun⟩
  | seed => exact ⟨nofun, fun _ => ⟨rfl, .inl rfl⟩, nofun, nofun, nofun⟩
  | seedraw => exact ⟨nofun, fun _ => ⟨rfl, .inr rfl⟩, nofun, nofun, nofun⟩
  | warmup => exact ⟨nofun, nofun, fun _ => ⟨rfl, rfl⟩, nofun, nofun⟩
  | genb => exact ⟨nofun, nofun, nofun, fun _ => ⟨rfl, .inl rfl⟩, nofun⟩
  | fill hlen => exact ⟨nofun, nofun, nofun, fun _ => ⟨rfl, .inr (.inl ⟨_, hlen, rfl⟩)⟩, nofun⟩
  | xstream => exact ⟨nofun, nofun, nofun, fun _ => ⟨rfl, .inr (.inr rfl)⟩, nofun⟩

/-- Settles O15: a change of the phase is a fault or stands in the table of causes. -/
theorem phaseChangesHaveTheirCause : Obligations.PhaseChangesHaveTheirCause := by
  intro i s t h hne
  obtain hsame | ⟨hfault, hi, hjob⟩ | hcause := exec_outcome i s t h
  · exact absurd hsame hne
  · rw [hfault]
    exact ⟨nofun, nofun, nofun, nofun, fun _ => ⟨hi, hjob⟩⟩
  · obtain ⟨hidle, hseeded, hwarmed, hrunning, hfault⟩ := hcause.by_phase
    exact ⟨hidle, hseeded, hwarmed, hrunning, fun hf => absurd hf hfault⟩

/-! ## The transition table (R165) -/

theorem phaseReach_refl (p : Phase) : phaseReach p p = true := by cases p <;> rfl

theorem phaseReach_idle (p : Phase) : phaseReach p .idle = true := by cases p <;> rfl

theorem phaseReach_fault (p : Phase) : phaseReach p .fault = true := by cases p <;> rfl

theorem phaseReach_running {p : Phase} (h : p.producing = true) : phaseReach p .running = true := by
  obtain rfl | rfl := Phase.producing_iff.1 h <;> rfl

theorem PhaseCause.reach {i : Instr} {p q : Phase} (h : PhaseCause i p q) : phaseReach p q = true := by
  cases h with
  | srst p => exact phaseReach_idle p
  | seed | seedraw | warmup | genb | fill | xstream => rfl

theorem PhaseOutcome.reach {i : Instr} {p : Phase} {t : State} (h : PhaseOutcome i p t) :
    phaseReach p t.regs.phase = true := by
  obtain hsame | ⟨hfault, -, -⟩ | hcause := h
  · rw [hsame]; exact phaseReach_refl p
  · rw [hfault]; exact phaseReach_fault p
  · exact hcause.reach

/-- In the phases that the invariant allows it, a command in progress enters a phase of the table. -/
theorem JobOk.reach {b : Build} {r : Regs} {j : Job} (h : JobOk b r j) {q : Phase} (hq : j.enters = some q) :
    phaseReach r.phase q = true := by
  have stream {src : KeySource} (hp : src = .int → r.phase.producing = true) (hsrc : src.enters = some q) :
      phaseReach r.phase q = true := by
    cases src with
    | int => exact Option.some.inj hsrc ▸ phaseReach_running (hp rfl)
    | ext => cases hsrc
  cases j with
  | seedRaw cnt =>
    obtain ⟨hp, -⟩ := h
    rw [hp, ← Option.some.inj hq]
    rfl
  | draw d u => exact Option.some.inj hq ▸ phaseReach_running h.1
  | fillOut left cnt v => exact Option.some.inj hq ▸ phaseReach_running h.1
  | read src cnt ib =>
    obtain ⟨-, hp, -⟩ := h
    exact stream hp hq
  | keyIn cnt last ib kb => cases hq
  | write src cnt last v rest =>
    obtain ⟨-, hp, -⟩ := h
    exact stream hp hq

theorem run_phaseReach {s : State} {j : Job} (h : BlockInv s) (hj : s.job = some j) :
    phaseReach s.regs.phase s.run.regs.phase = true := by
  obtain ⟨-, hjobs⟩ := blockInv_iff.1 h
  have hproceeds : Proceeds s.regs.phase j.enters s :=
    ⟨.inl (.inl rfl), fun i hi => congrArg Job.enters (Option.some.inj (hi.symm.trans hj))⟩
  obtain hsame | hentered | ⟨hfault, -⟩ := hproceeds.run.cases
  · rw [hsame]; exact phaseReach_refl _
  · exact (hjobs j hj).reach hentered
  · rw [hfault]; exact phaseReach_fault _

theorem illegalCommand_phaseReach (s : State) : phaseReach s.regs.phase s.illegalCommand.regs.phase = true := by
  unfold State.illegalCommand; split
  · exact phaseReach_refl _
  · exact phaseReach_fault _

theorem proceed_phaseReach {s t : State} (h : BlockInv s) (hp : proceed s = .next t) :
    phaseReach s.regs.phase t.regs.phase = true := by
  obtain ⟨j, hj, rfl⟩ | ⟨-, -, rfl⟩ | ⟨w, u, i, -, hc, -, he⟩ | ⟨w, u, e, -, hc, -, rfl⟩ := proceed_cases hp
  · exact run_phaseReach h hj
  · exact phaseReach_refl _
  · obtain ⟨-, hr⟩ := State.takeCmd_build_regs hc
    exact hr ▸ (exec_outcome i u t he).reach
  · obtain ⟨-, hr⟩ := State.takeCmd_build_regs hc
    exact hr ▸ illegalCommand_phaseReach u

/-- Settles O14: a step proceeds, or it is cut short by a reset, which may come in any phase. -/
theorem phaseTransitionsAreTheTable : Obligations.PhaseTransitionsAreTheTable := by
  intro s t h hs
  obtain ⟨-, hp⟩ | ⟨-, rfl⟩ | ⟨k, u, -, hp, rfl⟩ := step_cases hs
  · exact proceed_phaseReach h hp
  · exact phaseReach_idle _
  · obtain ⟨-, hk⟩ | ⟨-, hk⟩ := State.resetWithin_cases s k u
    · rw [hk]; exact phaseReach_idle _
    · rw [hk]; exact proceed_phaseReach (t := u) h hp

end Sys2Proof.Machine
end

section
/-! PROOFS. `FILL a` and then `FILL b` is `FILL a+b` (spec/43_generator.md R179, R180). After `a` bytes the longer
`FILL` stands where `FILL b` starts, but for its count of bytes and for the response of `FILL a` in the record; and
neither the count nor a response changes what a `FILL` does next. -/

namespace Sys2Proof.Machine

/-! ## Two runs side by side -/

/-- Two commands in progress that end together, wait together and advance from related states to related states come to
related ends. -/
theorem State.run_lockstep (R : State → State → Prop)
    (hstep : ∀ s t, R s t → (s.run = s ∧ t.run = t) ∨
      ∃ i j s' t', (s.job = some i ∧ advance i s = some s') ∧ (t.job = some j ∧ advance j t = some t') ∧ R s' t')
    {s t : State} (h : R s t) : R s.run t.run := by
  induction hk : s.ports.queued generalizing s t with
  | zero =>
    obtain ⟨hs, ht⟩ | ⟨i, j, s', t', ⟨-, hs⟩, -, -⟩ := hstep s t h
    · rwa [hs, ht]
    · have hqueued := (advance_takes hs).1
      omega
  | succ k ih =>
    obtain ⟨hs, ht⟩ | ⟨i, j, s', t', ⟨hsj, hs⟩, ⟨htj, ht⟩, h'⟩ := hstep s t h
    · rwa [hs, ht]
    · have hqueued := (advance_takes hs).1
      rw [State.run_advance hsj hs, State.run_advance htj ht]
      exact ih h' (by omega)

/-! ## A block but for its responses and its command in progress -/

/-- The item is a response. -/
def Item.isRsp : Item → Bool
  | .rsp _ => true
  | _ => false

/-- The block without the responses in its record, and with no command in progress. -/
def State.unanswered (s : State) : State where
  build := s.build
  regs := s.regs
  ports := { s.ports with trace := s.ports.trace.filter fun x => !x.isRsp }
  job := none

theorem unanswered_rsp (e : Err) (v : Nat) (s : State) : (s.rsp e v).unanswered = s.unanswered := rfl

theorem takeDraw_unanswered (s : State) :
    s.unanswered.takeDraw = s.takeDraw.map fun x => (x.1, x.2.unanswered) := by
  cases h : s.ports.drw <;> simp [State.takeDraw, State.unanswered, Item.isRsp, h]

theorem takeAnswer_unanswered (v : Byte) (s : State) :
    s.unanswered.takeAnswer v = (s.takeAnswer v).map fun x => (x.1, x.2.unanswered) := by
  cases h : s.ports.sink <;> simp [State.takeAnswer, State.unanswered, Item.isRsp, h]

/-- A response is no accepted byte. -/
theorem unanswered_delivered (s : State) : s.unanswered.ports.delivered = s.ports.delivered := by
  rw [Ports.delivered_eq, Ports.delivered_eq]
  show deliveredIn (s.ports.trace.filter _) = _
  induction s.ports.trace with
  | nil => rfl
  | cons x xs ih =>
    rw [← List.singleton_append, List.filter_append, deliveredIn_append, deliveredIn_append, ih]
    cases x <;> rfl

/-- A response is no draw request. -/
theorem unanswered_drawRequests (s : State) : s.unanswered.ports.drawRequests = s.ports.drawRequests := by
  rw [Ports.drawRequests_eq, Ports.drawRequests_eq]
  show drawRequestsIn (s.ports.trace.filter _) = _
  induction s.ports.trace with
  | nil => rfl
  | cons x xs ih =>
    rw [← List.singleton_append, List.filter_append, drawRequestsIn_append, drawRequestsIn_append, ih]
    cases x <;> rfl

/-! ## Two `FILL`s that differ in their counts -/

/-- Two waits of a `FILL`, or two ends, but for the count of the bytes written. -/
inductive SameWait : Option Job → Option Job → Prop
  | ended : SameWait none none
  | draw (p : DrawPoint) (left cnt cnt' : Nat) :
      SameWait (some (.draw p (.fill left cnt))) (some (.draw p (.fill left cnt')))
  | answer (left cnt cnt' : Nat) (v : Byte) : SameWait (some (.fillOut left cnt v)) (some (.fillOut left cnt' v))

/-- Two blocks in a `FILL` that differ in the count of the bytes written and in the responses on record only. -/
structure FillAlike (s t : State) : Prop where
  block : s.unanswered = t.unanswered
  wait : SameWait s.job t.job

section
variable {s t : State}

theorem regs_eq_of_unanswered (h : s.unanswered = t.unanswered) : s.regs = t.regs :=
  show s.unanswered.regs = t.unanswered.regs from congrArg State.regs h

/-- The same register operation on both. -/
theorem withRegs_unanswered (h : s.unanswered = t.unanswered) (f : Regs → Regs) :
    (s.withRegs (f s.regs)).unanswered = (t.withRegs (f t.regs)).unanswered :=
  congrArg (fun u => u.withRegs (f u.regs)) h

theorem rsp_alike (h : s.unanswered = t.unanswered) (e : Err) (v w : Nat) : FillAlike (s.rsp e v) (t.rsp e w) :=
  ⟨h, .ended⟩

theorem raise_alike (h : s.unanswered = t.unanswered) (c : Err) : FillAlike (s.raise c) (t.raise c) :=
  ⟨withRegs_unanswered h fun r => { r with err := c, phase := .fault }, .ended⟩

theorem ask_alike (h : s.unanswered = t.unanswered) (k : DrawKind) (p : DrawPoint) (left cnt cnt' : Nat) :
    FillAlike (s.ask k p (.fill left cnt)) (t.ask k p (.fill left cnt')) :=
  ⟨congrArg (State.emit (.drq k)) h, .draw p left cnt cnt'⟩

theorem finishByte_alike (h : s.unanswered = t.unanswered) (left cnt cnt' : Nat) :
    FillAlike (finishByte (.fill left cnt) s) (finishByte (.fill left cnt') t) where
  block := withRegs_unanswered h afterByte
  wait := by
    show SameWait (some (.fillOut left cnt (extractByte s.regs))) (some (.fillOut left cnt' (extractByte t.regs)))
    rw [regs_eq_of_unanswered h]
    exact .answer left cnt cnt' _

theorem startByte_alike (h : s.unanswered = t.unanswered) (left cnt cnt' : Nat) :
    FillAlike (startByte (.fill left cnt) s) (startByte (.fill left cnt') t) := by
  have hevolved : s.evolved.unanswered = t.evolved.unanswered :=
    withRegs_unanswered h fun r => evolveTimes r.ipb.toNat r
  unfold startByte
  rw [regs_eq_of_unanswered h]
  split
  · exact ask_alike hevolved _ _ _ _ _
  · exact finishByte_alike hevolved _ _ _

theorem nextTrial_alike (h : s.unanswered = t.unanswered) (left cnt cnt' k : Nat) :
    FillAlike (nextTrial (.fill left cnt) k s) (nextTrial (.fill left cnt') k t) := by
  cases k with
  | zero => exact finishByte_alike h _ _ _
  | succ k => exact ask_alike h _ _ _ _ _

theorem drawAnswer_alike (h : s.unanswered = t.unanswered) (p : DrawPoint) (left cnt cnt' : Nat) (d : Word) :
    FillAlike (drawAnswer p (.fill left cnt) d s) (drawAnswer p (.fill left cnt') d t) := by
  have htrials : s.regs.trials = t.regs.trials := congrArg Regs.trials (regs_eq_of_unanswered h)
  cases p with
  | gate2 =>
    unfold drawAnswer; simp only []; split
    · exact ask_alike h _ _ _ _ _
    · exact finishByte_alike h _ _ _
  | gate1 =>
    unfold drawAnswer; simp only []; split
    · exact ask_alike h _ _ _ _ _
    · rw [htrials]; exact nextTrial_alike h _ _ _ _
  | flip =>
    unfold drawAnswer; simp only []
    rw [htrials]
    exact nextTrial_alike (withRegs_unanswered h (flipCell d)) _ _ _ _
  | trial k => exact nextTrial_alike (withRegs_unanswered h (trialCell d)) _ _ _ _

theorem fillNext_alike (h : s.unanswered = t.unanswered) (left cnt cnt' : Nat) :
    FillAlike (fillNext left cnt s) (fillNext left cnt' t) := by
  cases left with
  | zero => exact rsp_alike h _ _ _
  | succ left => exact startByte_alike h _ _ _

theorem fillAnswer_alike (h : s.unanswered = t.unanswered) (left cnt cnt' : Nat) (a : Answer) :
    FillAlike (fillAnswer left cnt a s) (fillAnswer left cnt' a t) := by
  cases a with
  | ok => exact fillNext_alike h _ _ _
  | ioerr => exact raise_alike h _

theorem SameWait.both {o o' : Option Job} (h : SameWait o o') :
    (o = none ∧ o' = none) ∨ ∃ i j, o = some i ∧ o' = some j := by
  cases h with
  | ended => exact .inl ⟨rfl, rfl⟩
  | draw | answer => exact .inr ⟨_, _, rfl, rfl⟩

/-- What blocks that are alike show. -/
theorem FillAlike.observed (h : FillAlike s t) :
    s.regs = t.regs ∧ s.ports.delivered = t.ports.delivered ∧ s.ports.drawRequests = t.ports.drawRequests ∧
      s.ports.sink = t.ports.sink ∧ s.ports.drw = t.ports.drw ∧ (s.job = none ↔ t.job = none) := by
  refine ⟨regs_eq_of_unanswered h.block, ?delivered, ?requests, congrArg (·.ports.sink) h.block,
    congrArg (·.ports.drw) h.block, ?job⟩
  case delivered => rw [← unanswered_delivered, h.block, unanswered_delivered]
  case requests => rw [← unanswered_drawRequests, h.block, unanswered_drawRequests]
  case job =>
    obtain ⟨hs, ht⟩ | ⟨i, j, hs, ht⟩ := h.wait.both
    · exact iff_of_true hs ht
    · rw [hs, ht]
      exact iff_of_false nofun nofun

/-- Items taken from the same port of both: none, or the same. -/
theorem taken_alike {α : Type} {o o' : Option (α × State)} {f f' : α × State → State}
    (ho : (o.map fun x => (x.1, x.2.unanswered)) = o'.map fun x => (x.1, x.2.unanswered))
    (hf : ∀ a s t, s.unanswered = t.unanswered → FillAlike (f (a, s)) (f' (a, t))) :
    (o.map f = none ∧ o'.map f' = none) ∨
      ∃ s t, o.map f = some s ∧ o'.map f' = some t ∧ FillAlike s t := by
  cases o with
  | none =>
    cases o' with
    | none => exact .inl ⟨rfl, rfl⟩
    | some y => cases ho
  | some x =>
    cases o' with
    | none => cases ho
    | some y =>
      obtain ⟨a, s⟩ := x
      obtain ⟨b, t⟩ := y
      obtain ⟨rfl, hst⟩ : a = b ∧ s.unanswered = t.unanswered := Prod.mk.inj (Option.some.inj ho)
      exact .inr ⟨_, _, rfl, rfl, hf a s t hst⟩

theorem advance_alike {i j : Job} (h : s.unanswered = t.unanswered) (hw : SameWait (some i) (some j)) :
    (advance i s = none ∧ advance j t = none) ∨
      ∃ s' t', advance i s = some s' ∧ advance j t = some t' ∧ FillAlike s' t' := by
  cases hw with
  | draw p left cnt cnt' =>
    refine taken_alike ?_ fun d s t hst => drawAnswer_alike hst p left cnt cnt' d
    rw [← takeDraw_unanswered, ← takeDraw_unanswered, h]
  | answer left cnt cnt' v =>
    refine taken_alike ?_ fun a s t hst => fillAnswer_alike hst left cnt cnt' a
    rw [← takeAnswer_unanswered, ← takeAnswer_unanswered, h]

theorem FillAlike.run (h : FillAlike s t) : FillAlike s.run t.run := by
  refine State.run_lockstep FillAlike (fun s t h => ?_) h
  obtain ⟨hs, ht⟩ | ⟨i, j, hs, ht⟩ := h.wait.both
  · exact .inl ⟨State.run_idle hs, State.run_idle ht⟩
  · obtain ⟨ha, hb⟩ | ⟨s', t', ha, hb, h'⟩ := advance_alike h.block (hs ▸ ht ▸ h.wait)
    · exact .inl ⟨State.run_waiting hs ha, State.run_waiting ht hb⟩
    · exact .inr ⟨i, j, s', t', ⟨hs, ha⟩, ⟨ht, hb⟩, h'⟩

end

/-! ## The first bytes of a `FILL` -/

/-- The machine makes the byte that the pseudocode makes. -/
theorem run_startByte {s t : State} {v : Byte} (u : ByteUse) (h : Ref.produceByte s = some (v, t)) :
    (startByte u s).run = (useByte u v t).run :=
  (startByte_follows (next := fun x => some (useByte u x.1 x.2).run) fun v t _ => .run _).of_eq_some
    (by rw [h, Option.bind_some])

/-- The machine takes the answer that the pseudocode takes. -/
theorem run_fillOffer {s t : State} {v : Byte} {a : Answer} (left cnt : Nat) (h : s.takeAnswer v = some (a, t)) :
    (fillOffer left cnt v s).run = (fillAnswer left cnt a t).run :=
  (Follows.fillOffer (next := fun x => some (fillAnswer left cnt x.1 x.2).run) fun a t _ => .run _).of_eq_some
    (by rw [h, Option.bind_some])

/-- Where the pseudocode of a `FILL` of `k` bytes completes without a fault, it does so in a block `w`, and every longer
`FILL` comes through `w`. -/
theorem fill_passes {k cnt : Nat} {s t : State} (h : Ref.fill k cnt s = some t) (ht : t.regs.phase ≠ .fault) :
    ∃ w, t = w.rsp .none (cnt + k) ∧ ∀ m, (fillNext (k + m) cnt s).run = (fillNext m (cnt + k) w).run := by
  induction k generalizing cnt s with
  | zero =>
    obtain rfl : s.rsp .none cnt = t := Option.some.inj h
    exact ⟨s, rfl, fun m => by rw [Nat.zero_add, Nat.add_zero]⟩
  | succ k ih =>
    obtain ⟨⟨v, x⟩, hx, h⟩ := Option.bind_eq_some_iff.1 h
    obtain ⟨⟨a, y⟩, hy, h⟩ := Option.bind_eq_some_iff.1 h
    cases a with
    | ioerr =>
      obtain rfl : y.raise .io = t := Option.some.inj h
      exact absurd rfl ht
    | ok =>
      obtain ⟨w, hw, hrun⟩ := ih h
      refine ⟨w, by rw [hw, Nat.add_assoc, Nat.add_comm 1], fun m => ?_⟩
      rw [Nat.add_right_comm, fillNext, run_startByte _ hx, useByte, run_fillOffer _ _ hy, fillAnswer, hrun m,
        Nat.add_assoc, Nat.add_comm 1]

/-! ## The two commands and the one -/

theorem PhaseCause.running_of_fill {len : Imm} {p q : Phase} (h : PhaseCause (.fill len) p q) : q = .running := by
  cases h; rfl

/-- A `FILL` that does not fault was allowed, and leaves a phase that allows the next one. -/
theorem producing_of_fill {len : Imm} {s t : State} (h : exec (.fill len) s = .next t) (ht : t.regs.phase ≠ .fault) :
    s.regs.phase.producing = true ∧ t.regs.phase.producing = true := by
  have hp : s.regs.phase.producing = true := by
    rw [exec, execFill] at h
    obtain ⟨hfault, rfl⟩ | ⟨-, -, rfl⟩ | ⟨-, -, -, rfl⟩ | ⟨-, -, hl, -⟩ := guarded_cases h
    · exact absurd hfault ht
    · exact absurd rfl ht
    · exact absurd rfl ht
    · exact hl
  refine ⟨hp, ?_⟩
  obtain hsame | ⟨hfault, -, -⟩ | hcause := exec_outcome (.fill len) s t h
  · rwa [hsame]
  · exact absurd hfault ht
  · rw [hcause.running_of_fill]; rfl

/-- Settles O55: the longer `FILL` comes through the block that `FILL a` ends in, but for the response. -/
theorem fillsCompose : Obligations.FillsCompose := by
  intro a b s t hsum h hjob ht
  obtain ⟨hp, hpt⟩ := producing_of_fill h ht
  have hrun : (fillNext a.toNat 0 s).run = t := Host.Outcome.next.inj ((exec_fill_producing a hp).symm.trans h)
  obtain ⟨r, hr⟩ : ∃ r, Ref.fill a.toNat 0 s = some r :=
    Option.ne_none_iff_exists'.1 fun hn => (fill_follows a.toNat 0 s).waits hn (hrun ▸ hjob)
  obtain rfl : t = r := hrun.symm.trans ((fill_follows a.toNat 0 s).of_eq_some hr)
  obtain ⟨w, rfl, hpasses⟩ := fill_passes hr ht
  have hlen : (a + b).toNat = a.toNat + b.toNat := BitVec.toNat_add_of_lt hsum
  have halike := (fillNext_alike (unanswered_rsp .none (0 + a.toNat) w) b.toNat 0 (0 + a.toNat)).run
  refine ⟨_, _, exec_fill_producing b hpt, exec_fill_producing (a + b) hp, ?_⟩
  rw [hlen, hpasses b.toNat]
  exact halike.observed

end Sys2Proof.Machine
end

section
/-! PROOFS. The key sources of a stream (spec/44_stream.md R191). Both give key bytes one after another, from nothing
but the registers, `DRW` and `KIN`; so the key bytes of a stream can be spoken of apart from its frame, its sink and
its chunks. -/

namespace Sys2Proof.Machine

/-! ## Taking key bytes, whatever the source -/

/-- One key byte of a source (R191): `ProduceByte`, or the next byte of `KIN`. -/
def keyFrom (src : KeySource) (s : State) : Option (Byte × State) :=
  match src with
  | .int => Ref.produceByte s
  | .ext => s.takeKey

/-- The next `n` key bytes of a source. -/
def takeKeys (src : KeySource) : Nat → State → Option (List Byte × State)
  | 0, s => some ([], s)
  | n + 1, s => (keyFrom src s).bind fun x => (takeKeys src n x.2).map fun y => (x.1 :: y.1, y.2)

theorem keyFillInt_eq (n : Nat) (kb : List Byte) (s : State) :
    Ref.keyFillInt n kb s = (takeKeys .int n s).map fun y => (kb ++ y.1, y.2) := by
  induction n generalizing kb s with
  | zero => exact congrArg (fun l => some (l, s)) (List.append_nil kb).symm
  | succ n ih =>
    rw [Ref.keyFillInt, takeKeys, Option.map_bind]
    refine Option.bind_congr fun x _ => ?_
    rw [ih, Function.comp_apply, Option.map_map]
    simp only [Function.comp_def, List.append_assoc, List.singleton_append]

theorem keyBytesExt_eq (n : Nat) (kb : List Byte) (s : State) :
    Ref.keyBytesExt n kb s = (takeKeys .ext n s).map fun y => (kb ++ y.1, y.2) := by
  induction n generalizing kb s with
  | zero => exact congrArg (fun l => some (l, s)) (List.append_nil kb).symm
  | succ n ih =>
    rw [Ref.keyBytesExt, takeKeys, Option.map_bind]
    refine Option.bind_congr fun x _ => ?_
    rw [ih, Function.comp_apply, Option.map_map]
    simp only [Function.comp_def, List.append_assoc, List.singleton_append]

/-- The request for `n` key bytes, which only the external source is sent (R191). -/
def State.requesting (src : KeySource) (n : Nat) (s : State) : State :=
  match src with
  | .int => s
  | .ext => s.emit (.krq (keyCountWord n))

/-- `KeyFill(src, n)` is the request, then the bytes. -/
theorem keyFill_eq (src : KeySource) (n : Nat) (s : State) :
    Ref.keyFill src n s = takeKeys src n (s.requesting src n) := by
  cases src with
  | int => exact (keyFillInt_eq n [] s).trans Option.map_id_apply
  | ext => exact (keyBytesExt_eq n [] _).trans Option.map_id_apply

theorem takeKeys_length {src : KeySource} {n : Nat} {s g : State} {kb : List Byte}
    (h : takeKeys src n s = some (kb, g)) : kb.length = n := by
  induction n generalizing s kb with
  | zero =>
    obtain ⟨rfl, -⟩ := Prod.mk.inj (Option.some.inj h)
    rfl
  | succ n ih =>
    obtain ⟨x, -, h⟩ := Option.bind_eq_some_iff.1 h
    obtain ⟨y, hy, h⟩ := Option.map_eq_some_iff.1 h
    obtain ⟨rfl, rfl⟩ := Prod.mk.inj h
    exact congrArg (· + 1) (ih hy)

theorem takeKeys_add (src : KeySource) (a b : Nat) (s : State) :
    takeKeys src (a + b) s =
      (takeKeys src a s).bind fun x => (takeKeys src b x.2).map fun y => (x.1 ++ y.1, y.2) := by
  induction a generalizing s with
  | zero => rw [Nat.zero_add, takeKeys, Option.bind_some]; exact Option.map_id_apply.symm
  | succ a ih =>
    rw [Nat.add_right_comm, takeKeys, takeKeys, Option.bind_assoc]
    refine Option.bind_congr fun x _ => ?_
    rw [ih, Option.map_bind, Option.bind_map]
    refine Option.bind_congr fun y _ => ?_
    rw [Function.comp_apply, Option.map_map]
    rfl

/-! ## What a key source looks at -/

/-- A change of the block that leaves alone what a key source looks at: the registers, `DRW` and `KIN`. -/
structure KeyBlind (F : State → State) : Prop where
  regs : ∀ s, (F s).regs = s.regs
  withRegs : ∀ s r, (F s).withRegs r = F (s.withRegs r)
  draw : ∀ k s, Ref.draw k (F s) = (Ref.draw k s).map (Prod.map id F)
  takeKey : ∀ s, (F s).takeKey = s.takeKey.map (Prod.map id F)

section
variable {F : State → State} (hF : KeyBlind F)
include hF

theorem trials_blind (k : Nat) (s : State) : Ref.trials k (F s) = (Ref.trials k s).map F := by
  induction k generalizing s with
  | zero => rfl
  | succ k ih =>
    rw [Ref.trials, Ref.trials, hF.draw, Option.bind_map, Option.map_bind]
    refine Option.bind_congr fun x _ => ?_
    simp only [Function.comp_apply, Prod.map_fst, Prod.map_snd, id_eq, hF.regs, hF.withRegs, ih]

theorem flip_blind (gate : Word) (s : State) : Ref.flip gate (F s) = (Ref.flip gate s).map F := by
  unfold Ref.flip
  split
  · rw [hF.draw, Option.map_map, Option.map_map]
    refine Option.map_congr fun x _ => ?_
    simp only [Function.comp_apply, Prod.map_fst, Prod.map_snd, id_eq, hF.regs, hF.withRegs]
  · rfl

theorem enhance_blind (s : State) : Ref.enhance (F s) = (Ref.enhance s).map F := by
  rw [Ref.enhance, Ref.enhance, hF.draw, Option.bind_map, Option.map_bind]
  refine Option.bind_congr fun g _ => ?_
  simp only [Function.comp_apply, Prod.map_fst, Prod.map_snd, id_eq]
  rw [flip_blind hF, Option.bind_map, Option.map_bind]
  refine Option.bind_congr fun t _ => ?_
  rw [Function.comp_apply, hF.regs, trials_blind hF]
  rfl

theorem inject_blind (s : State) : Ref.inject (F s) = (Ref.inject s).map F := by
  unfold Ref.inject
  rw [hF.regs]
  split
  · rw [hF.draw, Option.bind_map, Option.map_bind]
    refine Option.bind_congr fun g _ => ?_
    simp only [Function.comp_apply, Prod.map_fst, Prod.map_snd, id_eq, enhance_blind hF]
    split <;> rfl
  · rfl

theorem produceByte_blind (s : State) : Ref.produceByte (F s) = (Ref.produceByte s).map (Prod.map id F) := by
  have hevolved : (F s).evolved = F s.evolved := by rw [State.evolved, hF.regs, hF.withRegs]; rfl
  rw [Ref.produceByte, Ref.produceByte, hevolved, inject_blind hF, Option.map_map, Option.map_map]
  refine Option.map_congr fun t _ => ?_
  simp only [Function.comp_apply, Prod.map_apply, id_eq, State.produced, hF.regs, hF.withRegs]

theorem keyFrom_blind (src : KeySource) (s : State) : keyFrom src (F s) = (keyFrom src s).map (Prod.map id F) := by
  cases src with
  | int => exact produceByte_blind hF s
  | ext => exact hF.takeKey s

theorem takeKeys_blind (src : KeySource) (n : Nat) (s : State) :
    takeKeys src n (F s) = (takeKeys src n s).map (Prod.map id F) := by
  induction n generalizing s with
  | zero => rfl
  | succ n ih =>
    rw [takeKeys, takeKeys, keyFrom_blind hF, Option.bind_map, Option.map_bind]
    refine Option.bind_congr fun x _ => ?_
    rw [Function.comp_apply, Function.comp_apply, Prod.map_snd, ih, Option.map_map, Option.map_map]
    rfl

end

/-! ## What the ports have seen -/

/-- All of a block but the command in progress and the order of the items across ports: the record of each port by
itself. -/
structure Seen where
  build : Build
  regs : Regs
  rst : ResetPin
  cmd : List Word
  din : List Symbol
  sink : List Answer
  kin : List Byte
  drw : List Word
  delivered : List Byte
  consumed : List Symbol
  keyRequests : List Word
  drawRequests : List DrawKind
  events : List (BitVec 64)
  responses : List Word

/-- What is seen of a block. -/
def State.seen (s : State) : Seen where
  build := s.build
  regs := s.regs
  rst := s.ports.rst
  cmd := s.ports.cmd
  din := s.ports.din
  sink := s.ports.sink
  kin := s.ports.kin
  drw := s.ports.drw
  delivered := s.ports.delivered
  consumed := s.ports.consumed
  keyRequests := s.ports.keyRequests
  drawRequests := s.ports.drawRequests
  events := s.ports.events
  responses := s.ports.responses

/-- The ports of which `v` is seen, with their record. -/
def Seen.ports (v : Seen) (trace : List Item) : Ports where
  rst := v.rst
  cmd := v.cmd
  din := v.din
  sink := v.sink
  kin := v.kin
  drw := v.drw
  trace := trace

theorem State.ports_of_seen {s : State} {v : Seen} (h : s.seen = v) : s.ports = v.ports s.ports.trace := by
  subst h; rfl

/-! ## The keys of a source, apart from everything else -/

/-- A block with nothing but what a key source looks at. -/
def Seen.keySide (v : Seen) : State where
  build := Build.reference
  regs := v.regs
  ports := { quietPorts with kin := v.kin, drw := v.drw }
  job := none

/-- The block after its key source, taken by itself, has come to `g`. -/
def State.keyed (s g : State) : State :=
  { s with
    regs := g.regs
    ports := { s.ports with kin := g.ports.kin, drw := g.ports.drw, trace := g.ports.trace ++ s.ports.trace } }

theorem State.keyed_keySide (s : State) : s.keyed s.seen.keySide = s := rfl

theorem keyed_blind (s : State) : KeyBlind s.keyed where
  regs _ := rfl
  withRegs _ _ := rfl
  draw k g := by cases h : g.ports.drw <;> simp [Ref.draw, State.takeDraw, State.emit, State.keyed, h]
  takeKey g := by cases h : g.ports.kin <;> simp [State.takeKey, State.keyed, h]

/-- The item is one of those that a key source takes or sends. -/
def Item.isKey : Item → Bool
  | .kin _ => true
  | .drq _ => true
  | .drw _ => true
  | _ => false

/-- The block with only the items of a key source in its record. -/
def State.onlyKeys (s : State) : State :=
  { s with ports := { s.ports with trace := s.ports.trace.filter Item.isKey } }

theorem onlyKeys_blind : KeyBlind State.onlyKeys where
  regs _ := rfl
  withRegs _ _ := rfl
  draw k g := by
    cases h : g.ports.drw <;>
      simp [Ref.draw, State.takeDraw, State.emit, State.onlyKeys, List.filter_cons, Item.isKey, h]
  takeKey g := by cases h : g.ports.kin <;> simp [State.takeKey, State.onlyKeys, List.filter_cons, Item.isKey, h]

/-- From the registers, the draws and the key bytes of `v`, the source `src` gives the `n` key bytes `kb` and comes to
`g`. -/
def KeysFrom (src : KeySource) (n : Nat) (v : Seen) (kb : List Byte) (g : State) : Prop :=
  takeKeys src n v.keySide = some (kb, g)

section
variable {src : KeySource} {n : Nat} {v : Seen} {kb : List Byte} {g : State}

theorem KeysFrom.length (h : KeysFrom src n v kb g) : kb.length = n := takeKeys_length h

/-- A key source puts no other items on record. -/
theorem KeysFrom.onlyKeys (h : KeysFrom src n v kb g) : g.onlyKeys = g := by
  have hrun : takeKeys src n v.keySide = some (kb, g.onlyKeys) := by
    have hblind := takeKeys_blind onlyKeys_blind src n v.keySide
    rwa [show takeKeys src n v.keySide = _ from h] at hblind
  exact (Prod.mk.inj (Option.some.inj (hrun.symm.trans h))).2

/-- The keys of a block are those of its key side. -/
theorem takeKeys_eq (src : KeySource) (n : Nat) (s : State) :
    takeKeys src n s = (takeKeys src n s.seen.keySide).map (Prod.map id s.keyed) := by
  conv_lhs => rw [← s.keyed_keySide]
  exact takeKeys_blind (keyed_blind s) src n s.seen.keySide

theorem KeysFrom.on_block {s : State} (h : KeysFrom src n s.seen kb g) :
    takeKeys src n s = some (kb, s.keyed g) := by rw [takeKeys_eq, h]; rfl

theorem keysFrom_of_takeKeys {s t : State} (h : takeKeys src n s = some (kb, t)) :
    ∃ g, KeysFrom src n s.seen kb g ∧ t = s.keyed g := by
  rw [takeKeys_eq] at h
  obtain ⟨⟨kb', g⟩, hg, h⟩ := Option.map_eq_some_iff.1 h
  obtain ⟨rfl, rfl⟩ := Prod.mk.inj h
  exact ⟨g, hg, rfl⟩

theorem keysFrom_zero : KeysFrom src 0 v [] v.keySide := rfl

theorem KeysFrom.append {a b : Nat} {w : Seen} {kb₁ kb₂ : List Byte} {g₁ g₂ : State} (h₁ : KeysFrom src a v kb₁ g₁)
    (h₂ : KeysFrom src b w kb₂ g₂) (hw : w.keySide = g₁.seen.keySide) :
    KeysFrom src (a + b) v (kb₁ ++ kb₂) (g₁.keyed g₂) := by
  have hrest : takeKeys src b g₁ = some (kb₂, g₁.keyed g₂) :=
    KeysFrom.on_block (show takeKeys src b _ = _ from hw ▸ h₂)
  rw [KeysFrom, takeKeys_add, show takeKeys src a v.keySide = _ from h₁, Option.bind_some, hrest]
  rfl

theorem KeysFrom.split {a b : Nat} (h : KeysFrom src (a + b) v kb g) :
    ∃ kb₁ g₁ kb₂ g₂, KeysFrom src a v kb₁ g₁ ∧ KeysFrom src b g₁.seen kb₂ g₂ ∧ kb = kb₁ ++ kb₂ ∧ g = g₁.keyed g₂ := by
  rw [KeysFrom, takeKeys_add] at h
  obtain ⟨⟨kb₁, g₁⟩, h₁, h⟩ := Option.bind_eq_some_iff.1 h
  obtain ⟨⟨kb₂, t⟩, ht, h⟩ := Option.map_eq_some_iff.1 h
  obtain ⟨rfl, rfl⟩ := Prod.mk.inj h
  obtain ⟨g₂, h₂, rfl⟩ := keysFrom_of_takeKeys ht
  exact ⟨kb₁, g₁, kb₂, g₂, h₁, h₂, rfl, rfl⟩

end

end Sys2Proof.Machine
end

section
/-! PROOFS. What is seen of a stream, port by port (spec/44_stream.md R192, R196). The parts of a stream - its
symbols, its key requests, its keys, its output - touch different ports, and what is seen of two of them in a row is
what is seen of one that is as long as both. -/

namespace Sys2Proof.Machine

/-- No item of another port shows in what a key source has put on record. -/
theorem KeysFrom.filterMap_eq_nil {src : KeySource} {n : Nat} {v : Seen} {kb : List Byte} {g : State}
    (h : KeysFrom src n v kb g) {α : Type} {f : Item → Option α} (hkin : ∀ b, f (.kin b) = none)
    (hdrq : ∀ k, f (.drq k) = none) (hdrw : ∀ d, f (.drw d) = none) : g.ports.trace.reverse.filterMap f = [] := by
  have htrace : g.ports.trace = g.ports.trace.filter Item.isKey := congrArg (·.ports.trace) h.onlyKeys.symm
  rw [htrace, List.filterMap_eq_nil_iff]
  intro x hx
  have hkey : x.isKey = true := (List.mem_filter.1 (List.mem_reverse.1 hx)).2
  cases x with
  | kin b => exact hkin b
  | drq k => exact hdrq k
  | drw d => exact hdrw d
  | cmd | rsp | din | dout | krq | evt => cases hkey

/-! ## What each part of a stream does to what is seen -/

/-- The symbols have been taken from `DIN`. -/
def Seen.took (symbols : List Symbol) (v : Seen) : Seen :=
  { v with din := v.din.drop symbols.length, consumed := v.consumed ++ symbols }

/-- The key requests have been sent. -/
def Seen.asked (requests : List Word) (v : Seen) : Seen := { v with keyRequests := v.keyRequests ++ requests }

/-- The key source has come to `g`. -/
def Seen.keyed (g : State) (v : Seen) : Seen :=
  { v with
    regs := g.regs, kin := g.ports.kin, drw := g.ports.drw, drawRequests := v.drawRequests ++ g.ports.drawRequests }

/-- The events of `n` bytes that follow on `cnt` bytes (R196). -/
def eventsAfter (cnt : Nat) : Nat → List (BitVec 64)
  | 0 => []
  | n + 1 => (if (cnt + 1) % progGran = 0 then [BitVec.ofNat 64 (cnt + 1)] else []) ++ eventsAfter (cnt + 1) n

/-- The sink has accepted the bytes `out`, after `cnt` others. -/
def Seen.gave (cnt : Nat) (out : List Byte) (v : Seen) : Seen :=
  { v with
    sink := v.sink.drop out.length, delivered := v.delivered ++ out, events := v.events ++ eventsAfter cnt out.length }

/-- The response `{e, p}` has been given. -/
def Seen.answered (e : Err) (p : Nat) (v : Seen) : Seen := { v with responses := v.responses ++ [respWord e p] }

/-- The command has ended with `fault(c)`. -/
def Seen.faulted (c : Err) (v : Seen) : Seen :=
  { v with regs := { v.regs with err := c, phase := .fault }, responses := v.responses ++ [respWord c 0] }

/-- One more item is on record: each port sees its own items. -/
def Seen.recorded (v : Seen) : Item → Seen
  | .rsp w => { v with responses := v.responses ++ [w] }
  | .din d => { v with consumed := v.consumed ++ [d] }
  | .dout b .ok => { v with delivered := v.delivered ++ [b] }
  | .krq w => { v with keyRequests := v.keyRequests ++ [w] }
  | .drq k => { v with drawRequests := v.drawRequests ++ [k] }
  | .evt c => { v with events := v.events ++ [c] }
  | .cmd _ => v
  | .dout _ .ioerr => v
  | .kin _ => v
  | .drw _ => v

theorem emit_seen (x : Item) (s : State) : (s.emit x).seen = s.seen.recorded x := by
  obtain _ | _ | _ | ⟨_, _ | _⟩ | _ | _ | _ | _ | _ := x <;>
    simp [State.seen, Seen.recorded, Ports.delivered, Ports.consumed, Ports.keyRequests, Ports.drawRequests,
      Ports.events, Ports.responses]

theorem rsp_seen (e : Err) (p : Nat) (s : State) : (s.rsp e p).seen = s.seen.answered e p :=
  emit_seen (.rsp (respWord e p)) s

theorem raise_seen (c : Err) (s : State) : (s.raise c).seen = s.seen.faulted c :=
  rsp_seen c 0 (s.withRegs { s.regs with err := c, phase := .fault })

/-- The block when it has taken the symbols from `DIN`. -/
def State.taking (symbols : List Symbol) (s : State) : State :=
  { s with ports := { s.ports with
    din := s.ports.din.drop symbols.length, trace := takenSymbols symbols ++ s.ports.trace } }

theorem State.taking_taking (a b : List Symbol) (s : State) : (s.taking a).taking b = s.taking (a ++ b) := by
  simp [State.taking, takenSymbols, List.drop_drop]

theorem Seen.took_took (a b : List Symbol) (v : Seen) : (v.took a).took b = v.took (a ++ b) := by
  simp only [Seen.took, List.drop_drop, List.length_append, List.append_assoc]

theorem taking_seen (symbols : List Symbol) (s : State) : (s.taking symbols).seen = s.seen.took symbols := by
  induction symbols generalizing s with
  | nil => simp [State.seen, State.taking, Seen.took, takenSymbols]
  | cons d symbols ih =>
    have hfirst : (s.taking [d]).seen = s.seen.took [d] :=
      congrArg (fun w : Seen => { w with din := s.ports.din.drop 1 }) (emit_seen (.din d) s)
    rw [← List.singleton_append, ← State.taking_taking, ih, hfirst, Seen.took_took]

/-- The key requests for `n` bytes in chunks of `chunk` (R191, R194). -/
def keyAsks (src : KeySource) (chunk n : Nat) : List Word :=
  match src with
  | .int => []
  | .ext => requestSizes chunk n

/-- Whole chunks are asked for before the rest. -/
theorem keyAsks_add (src : KeySource) {chunk a : Nat} (hc : 1 ≤ chunk) (ha : chunk ∣ a) (b : Nat) :
    keyAsks src chunk (a + b) = keyAsks src chunk a ++ keyAsks src chunk b := by
  cases src with
  | int => rfl
  | ext =>
    obtain ⟨m, rfl⟩ := ha
    rw [keyAsks, keyAsks, keyAsks, requestSizes, requestSizes, requestSizes, Nat.mul_add_div hc, Nat.mul_add_mod,
      Nat.mul_div_cancel_left _ hc, Nat.mul_mod_right, if_pos rfl, List.append_nil, List.replicate_add,
      List.append_assoc]

theorem keyAsks_zero (src : KeySource) (chunk : Nat) : keyAsks src chunk 0 = [] := by
  cases src with
  | int => rfl
  | ext => simp [keyAsks, requestSizes]

theorem requesting_seen (src : KeySource) {chunk n : Nat} (hn : 0 < n) (hc : n ≤ chunk) (s : State) :
    (s.requesting src n).seen = s.seen.asked (keyAsks src chunk n) := by
  cases src with
  | int => simp [State.requesting, Seen.asked, keyAsks]
  | ext =>
    have hsizes : requestSizes chunk n = [keyCountWord n] := by
      obtain rfl | hlt := Nat.eq_or_lt_of_le hc
      · simp [requestSizes, Nat.div_self hn]
      · simp [requestSizes, Nat.div_eq_of_lt hlt, Nat.mod_eq_of_lt hlt, hn.ne']
    rw [keyAsks, hsizes]
    exact emit_seen (.krq (keyCountWord n)) s

theorem KeysFrom.keyed_seen {src : KeySource} {n : Nat} {v : Seen} {kb : List Byte} {g : State}
    (h : KeysFrom src n v kb g) (s : State) : (s.keyed g).seen = s.seen.keyed g := by
  have hdelivered : g.ports.delivered = [] := h.filterMap_eq_nil (fun _ => rfl) (fun _ => rfl) fun _ => rfl
  have hconsumed : g.ports.consumed = [] := h.filterMap_eq_nil (fun _ => rfl) (fun _ => rfl) fun _ => rfl
  have hrequests : g.ports.keyRequests = [] := h.filterMap_eq_nil (fun _ => rfl) (fun _ => rfl) fun _ => rfl
  have hevents : g.ports.events = [] := h.filterMap_eq_nil (fun _ => rfl) (fun _ => rfl) fun _ => rfl
  have hresponses : g.ports.responses = [] := h.filterMap_eq_nil (fun _ => rfl) (fun _ => rfl) fun _ => rfl
  unfold Ports.delivered at hdelivered
  unfold Ports.consumed at hconsumed
  unfold Ports.keyRequests at hrequests
  unfold Ports.events at hevents
  unfold Ports.responses at hresponses
  simp only [State.seen, State.keyed, Seen.keyed, Ports.delivered, Ports.consumed, Ports.keyRequests,
    Ports.drawRequests, Ports.events, Ports.responses, List.reverse_append, List.filterMap_append, hdelivered,
    hconsumed, hrequests, hevents, hresponses, List.append_nil]

/-! ## The bytes on `DOUT` -/

/-- The block when the sink has accepted the byte `v`. -/
def State.giving (v : Byte) (s : State) : State :=
  { s with ports := { s.ports with sink := s.ports.sink.tail, trace := .dout v .ok :: s.ports.trace } }

/-- The block when the sink has accepted the bytes `out`, after `cnt` others. -/
def State.givingAll (cnt : Nat) : List Byte → State → State
  | [], s => s
  | v :: out, s => State.givingAll (cnt + 1) out (progress (cnt + 1) (s.giving v))

theorem progress_giving_seen (cnt : Nat) (v : Byte) (s : State) :
    (progress (cnt + 1) (s.giving v)).seen = s.seen.gave cnt [v] := by
  have hgiving : (s.giving v).seen = { s.seen.recorded (.dout v .ok) with sink := s.ports.sink.tail } :=
    congrArg (fun w : Seen => { w with sink := s.ports.sink.tail }) (emit_seen (.dout v .ok) s)
  unfold progress
  split
  · next h =>
    rw [emit_seen, hgiving]
    simp [Seen.recorded, Seen.gave, State.seen, eventsAfter, h]
  · next h =>
    rw [hgiving]
    simp [Seen.recorded, Seen.gave, State.seen, eventsAfter, h]

theorem eventsAfter_add (cnt a b : Nat) : eventsAfter cnt (a + b) = eventsAfter cnt a ++ eventsAfter (cnt + a) b := by
  induction a generalizing cnt with
  | zero => rw [Nat.zero_add]; rfl
  | succ a ih =>
    rw [Nat.add_right_comm, eventsAfter, eventsAfter, ih, List.append_assoc, Nat.add_assoc, Nat.add_comm 1]

theorem Seen.gave_gave (cnt : Nat) (a b : List Byte) (v : Seen) :
    (v.gave cnt a).gave (cnt + a.length) b = v.gave cnt (a ++ b) := by
  simp only [Seen.gave, List.drop_drop, List.length_append, List.append_assoc, eventsAfter_add]

theorem givingAll_seen (cnt : Nat) (out : List Byte) (s : State) :
    (s.givingAll cnt out).seen = s.seen.gave cnt out := by
  induction out generalizing cnt s with
  | nil => simp [State.givingAll, Seen.gave, eventsAfter]
  | cons v out ih => rw [State.givingAll, ih, progress_giving_seen]; exact Seen.gave_gave cnt [v] out _

theorem progressCounts_succ (n : Nat) :
    progressCounts (n + 1) =
      progressCounts n ++ if (n + 1) % progGran = 0 then [BitVec.ofNat 64 (n + 1)] else [] := by
  rw [progressCounts, progressCounts, Nat.succ_div]
  split
  · next h =>
    rw [if_pos (Nat.mod_eq_zero_of_dvd h), List.range_succ, List.map_append, List.map_singleton]
    have hcount : (n / progGran + 1) * progGran = n + 1 := by
      rw [← Nat.succ_div_of_dvd h, Nat.div_mul_cancel h]
    rw [hcount]
  · next h => rw [if_neg fun hmod => h (Nat.dvd_of_mod_eq_zero hmod), List.append_nil, Nat.add_zero]

/-- From the start of a stream the events are those of R196. -/
theorem eventsAfter_zero (n : Nat) : eventsAfter 0 n = progressCounts n := by
  induction n with
  | zero => simp [eventsAfter, progressCounts]
  | succ n ih => rw [eventsAfter_add, ih, progressCounts_succ, Nat.zero_add]; simp [eventsAfter]

/-! ## A number of bytes of a stream -/

/-- A stream has taken the symbols, sent the key requests, come to `g` in its key source and had the bytes `out`
accepted, after `cnt` others. -/
def Seen.passed (v : Seen) (symbols : List Symbol) (requests : List Word) (g : State) (cnt : Nat) (out : List Byte) :
    Seen := (((v.took symbols).asked requests).keyed g).gave cnt out

theorem Seen.passed_passed (v : Seen) (ss₁ ss₂ : List Symbol) (ws₁ ws₂ : List Word) (g₁ g₂ : State) (cnt : Nat)
    (out₁ out₂ : List Byte) :
    (v.passed ss₁ ws₁ g₁ cnt out₁).passed ss₂ ws₂ g₂ (cnt + out₁.length) out₂ =
      v.passed (ss₁ ++ ss₂) (ws₁ ++ ws₂) (g₁.keyed g₂) cnt (out₁ ++ out₂) := by
  simp [Seen.passed, Seen.took, Seen.asked, Seen.keyed, Seen.gave, State.keyed, Ports.drawRequests, eventsAfter_add]

end Sys2Proof.Machine
end

section
/-! PROOFS. The machine along a stream (spec/44_stream.md R192, R199): its full chunks, its last chunk, and the two
errors that cut it short; and what a stream that has completed must have been offered. -/

namespace Sys2Proof.Machine

/-! ## The machine along a stream -/

theorem State.taking_build (symbols : List Symbol) (s : State) : (s.taking symbols).build = s.build := rfl

theorem append_prefix_iff {α : Type} {a b l : List α} : a ++ b <+: l ↔ a <+: l ∧ b <+: l.drop a.length := by
  constructor
  · rintro ⟨t, rfl⟩
    exact ⟨⟨b ++ t, by rw [List.append_assoc]⟩, ⟨t, by rw [List.append_assoc, List.drop_left]⟩⟩
  · rintro ⟨⟨t, rfl⟩, hb⟩
    rw [List.drop_left] at hb
    exact (List.prefix_append_right_inj a).2 hb

section
variable {src : KeySource} {cnt : Nat} {last : Bool} {ib kb out more : List Byte} {s g : State}

theorem run_read {d : Symbol} (h : [d] <+: s.ports.din) :
    (s.wait (.read src cnt ib)).run = (readSymbol src cnt ib d (s.taking [d])).run := by
  obtain ⟨rest, hrest⟩ := h
  have hdin : s.ports.din = d :: rest := hrest.symm
  have htake : s.takeDin = some (d, s.taking [d]) := State.takeDin_eq_some.2 ⟨rest, hdin, by
    rw [State.taking, hdin]; rfl⟩
  exact (Follows.read (next := fun x => some (readSymbol src cnt ib x.1 x.2).run) fun _ _ _ => .run _).of_eq_some
    (by rw [htake, Option.bind_some])

/-- Data bytes that do not fill the chunk. -/
theorem run_read_data {bytes : List Byte} (hroom : ib.length + bytes.length < s.build.chunk)
    (hdin : bytes.map .data <+: s.ports.din) :
    (s.wait (.read src cnt ib)).run = ((s.taking (bytes.map .data)).wait (.read src cnt (ib ++ bytes))).run := by
  induction bytes generalizing ib s with
  | nil => rw [List.append_nil]; rfl
  | cons v bytes ih =>
    rw [List.length_cons] at hroom
    obtain ⟨hv, hbytes⟩ := (append_prefix_iff (a := [Symbol.data v])).1 hdin
    rw [run_read hv, readSymbol, State.taking_build, if_pos (by omega),
      ih (by rw [List.length_append, List.length_singleton, State.taking_build]; omega) hbytes, State.taking_taking,
      List.append_assoc]
    rfl

/-- Data bytes that do not fill the chunk, and the symbol behind them. -/
theorem run_read_symbol {bytes : List Byte} {d : Symbol} (hroom : bytes.length < s.build.chunk)
    (hdin : bytes.map .data ++ [d] <+: s.ports.din) :
    (s.wait (.read src cnt [])).run = (readSymbol src cnt bytes d (s.taking (bytes.map .data ++ [d]))).run := by
  obtain ⟨hbytes, hd⟩ := append_prefix_iff.1 hdin
  rw [run_read_data (by rwa [List.length_nil, Nat.zero_add]) hbytes, List.nil_append,
    run_read (s := s.taking _) hd, State.taking_taking]

/-- The symbols are those of one chunk (R192): `CHUNK` data bytes, or fewer and `End`. -/
inductive ChunkSymbols (chunk : Nat) (ib : List Byte) : Bool → List Symbol → Prop
  | full : ib.length = chunk → ChunkSymbols chunk ib false (ib.map .data)
  | ended : ib.length < chunk → ChunkSymbols chunk ib true (frameOf ib)

theorem ChunkSymbols.length_le {chunk : Nat} {symbols : List Symbol} (h : ChunkSymbols chunk ib last symbols) :
    ib.length ≤ chunk := by
  cases h with
  | full h => exact h.le
  | ended h => exact h.le

/-- The reading of a chunk that is not empty. -/
theorem run_read_chunk {symbols : List Symbol} (hib : ib ≠ []) (h : ChunkSymbols s.build.chunk ib last symbols)
    (hdin : symbols <+: s.ports.din) :
    (s.wait (.read src cnt [])).run = (keyFill src cnt last ib (s.taking symbols)).run := by
  cases h with
  | full hlen =>
    obtain ⟨bytes, v, rfl⟩ := (List.eq_nil_or_concat ib).resolve_left hib
    rw [List.length_concat] at hlen
    rw [List.concat_eq_append, List.map_append, List.map_singleton] at hdin ⊢
    rw [run_read_symbol (by omega) hdin, readSymbol, State.taking_build, if_neg (by omega)]
  | ended hlen => rw [frameOf, run_read_symbol hlen hdin, readSymbol, if_neg hib]

/-- The key fill of a chunk, up to its writes. -/
theorem run_keyFill (hib : ib ≠ []) (h : KeysFrom src ib.length s.seen kb g) :
    (keyFill src cnt last ib s).run =
      (streamOffer src cnt last (xorBytes ib kb) ((s.requesting src ib.length).keyed g)).run := by
  have hkeys : KeysFrom src ib.length (s.requesting src ib.length).seen kb g := by cases src <;> exact h
  have hfill : Ref.keyFill src ib.length s = some (kb, (s.requesting src ib.length).keyed g) :=
    (keyFill_eq src _ s).trans hkeys.on_block
  exact (keyFill_follows hib (next := fun x => some (streamOffer src cnt last (xorBytes ib x.1) x.2).run)
    fun _ _ _ => .run _).of_eq_some (by rw [hfill, Option.bind_some])

theorem run_write {v : Byte} {rest : List Byte} {a : Answer} {t : State} (h : s.takeAnswer v = some (a, t)) :
    (streamOffer src cnt last (v :: rest) s).run = (writeAnswer src cnt last rest a t).run :=
  (Follows.write (next := fun x => some (writeAnswer src cnt last rest x.1 x.2).run) fun _ _ _ => .run _).of_eq_some
    (by rw [h, Option.bind_some])

/-- The writes that the sink accepts. -/
theorem run_streamOffer_accepted (hsink : List.replicate out.length .ok <+: s.ports.sink) :
    (streamOffer src cnt last (out ++ more) s).run =
      (streamOffer src (cnt + out.length) last more (s.givingAll cnt out)).run := by
  induction out generalizing cnt s with
  | nil => rfl
  | cons v out ih =>
    obtain ⟨rest, hrest⟩ := hsink
    have hsink : s.ports.sink = .ok :: (List.replicate out.length .ok ++ rest) := hrest.symm
    have htake : s.takeAnswer v = some (.ok, s.giving v) := State.takeAnswer_eq_some.2 ⟨_, hsink, by
      rw [State.giving, hsink]; rfl⟩
    have hleft : List.replicate out.length .ok <+: (progress (cnt + 1) (s.giving v)).ports.sink := by
      obtain ⟨-, -, -, -, hsame, -⟩ := progress_same (cnt + 1) (s.giving v)
      rw [hsame, State.giving, hsink]
      exact List.prefix_append _ _
    rw [List.cons_append, run_write htake, writeAnswer, ih hleft, List.length_cons, Nat.add_assoc, Nat.add_comm 1]
    rfl

/-- The block when the sink has refused the byte `v`. -/
def State.refusing (v : Byte) (s : State) : State :=
  { s with ports := { s.ports with sink := s.ports.sink.tail, trace := .dout v .ioerr :: s.ports.trace } }

/-- The write that the sink refuses. -/
theorem run_streamOffer_refused {v : Byte} (hsink : [.ioerr] <+: s.ports.sink) :
    (streamOffer src cnt last (v :: more) s).run = (s.refusing v).raise .io := by
  obtain ⟨rest, hrest⟩ := hsink
  have hsink : s.ports.sink = .ioerr :: rest := hrest.symm
  have htake : s.takeAnswer v = some (.ioerr, s.refusing v) := State.takeAnswer_eq_some.2 ⟨rest, hsink, by
    rw [State.refusing, hsink]; rfl⟩
  rw [run_write htake]
  exact State.run_idle rfl

/-- The sink has refused a byte. -/
def Seen.refused (v : Seen) : Seen := { v with sink := v.sink.tail }

theorem refusing_seen (v : Byte) (s : State) : (s.refusing v).seen = s.seen.refused :=
  congrArg (fun w : Seen => { w with sink := s.ports.sink.tail }) (emit_seen (.dout v .ioerr) s)

/-- A chunk that is not empty, from its reading to the last byte that the sink accepts of it. -/
theorem run_chunk {symbols : List Symbol} (hib : ib ≠ []) (hsymbols : ChunkSymbols s.build.chunk ib last symbols)
    (hdin : symbols <+: s.ports.din) (hkeys : KeysFrom src ib.length s.seen kb g) (hout : xorBytes ib kb = out ++ more)
    (hsink : List.replicate out.length .ok <+: s.ports.sink) :
    ∃ t : State, (s.wait (.read src cnt [])).run = (streamOffer src (cnt + out.length) last more t).run ∧
      t.seen = s.seen.passed symbols (keyAsks src s.build.chunk ib.length) g cnt out := by
  have hkeys' : KeysFrom src ib.length (s.taking symbols).seen kb g := hkeys
  have hsink' : List.replicate out.length .ok <+:
      (((s.taking symbols).requesting src ib.length).keyed g).ports.sink := by cases src <;> exact hsink
  refine ⟨(((s.taking symbols).requesting src ib.length).keyed g).givingAll cnt out, ?run, ?seen⟩
  case run =>
    rw [run_read_chunk hib hsymbols hdin, run_keyFill hib hkeys', hout, run_streamOffer_accepted hsink']
  case seen =>
    rw [givingAll_seen, hkeys.keyed_seen, requesting_seen src (List.length_pos_iff.2 hib) hsymbols.length_le,
      taking_seen]
    rfl

end

/-! ## What a stream needs -/

/-- The symbols are queued on `DIN`, the sink accepts `n` bytes, and the key source gives the `n` bytes `kb`. -/
structure Supplied (src : KeySource) (symbols : List Symbol) (n : Nat) (kb : List Byte) (g : State) (v : Seen) :
    Prop where
  din : symbols <+: v.din
  sink : List.replicate n .ok <+: v.sink
  keys : KeysFrom src n v kb g

section
variable {src : KeySource} {ss₁ ss₂ : List Symbol} {a b : Nat} {kb kb₁ kb₂ : List Byte} {g g₁ g₂ : State} {v : Seen}

theorem Supplied.split (h : Supplied src (ss₁ ++ ss₂) (a + b) kb g v) :
    ∃ kb₁ g₁ kb₂ g₂, Supplied src ss₁ a kb₁ g₁ v ∧ kb = kb₁ ++ kb₂ ∧ g = g₁.keyed g₂ ∧
      ∀ requests cnt out, out.length = a → Supplied src ss₂ b kb₂ g₂ (v.passed ss₁ requests g₁ cnt out) := by
  obtain ⟨hdin, hsink, hkeys⟩ := h
  obtain ⟨hdin₁, hdin₂⟩ := append_prefix_iff.1 hdin
  rw [List.replicate_add, append_prefix_iff, List.length_replicate] at hsink
  obtain ⟨hsink₁, hsink₂⟩ := hsink
  obtain ⟨kb₁, g₁, kb₂, g₂, hkeys₁, hkeys₂, rfl, rfl⟩ := hkeys.split
  refine ⟨kb₁, g₁, kb₂, g₂, ⟨hdin₁, hsink₁, hkeys₁⟩, rfl, rfl, fun requests cnt out hout => ⟨hdin₂, ?_, hkeys₂⟩⟩
  subst hout
  exact hsink₂

theorem Supplied.append {requests : List Word} {cnt : Nat} {out : List Byte} (h₁ : Supplied src ss₁ a kb₁ g₁ v)
    (h₂ : Supplied src ss₂ b kb₂ g₂ (v.passed ss₁ requests g₁ cnt out)) (hout : out.length = a) :
    Supplied src (ss₁ ++ ss₂) (a + b) (kb₁ ++ kb₂) (g₁.keyed g₂) v where
  din := append_prefix_iff.2 ⟨h₁.din, h₂.din⟩
  sink := by
    subst hout
    rw [List.replicate_add, append_prefix_iff, List.length_replicate]
    exact ⟨h₁.sink, h₂.sink⟩
  keys := h₁.keys.append h₂.keys rfl

end

theorem xorBytes_length {ib kb : List Byte} (h : kb.length = ib.length) : (xorBytes ib kb).length = ib.length := by
  rw [xorBytes, List.length_zipWith, h, Nat.min_self]

theorem xorBytes_append {ib₁ ib₂ kb₁ kb₂ : List Byte} (h : kb₁.length = ib₁.length) :
    xorBytes (ib₁ ++ ib₂) (kb₁ ++ kb₂) = xorBytes ib₁ kb₁ ++ xorBytes ib₂ kb₂ := List.zipWith_append h.symm

/-- Nothing has passed. -/
theorem Seen.passed_nil (v : Seen) (cnt : Nat) : v.passed [] [] v.keySide cnt [] = v := by
  simp [Seen.passed, Seen.took, Seen.asked, Seen.keyed, Seen.gave, Seen.keySide, quietPorts, Ports.drawRequests,
    eventsAfter]

theorem KeysFrom.eq_of_zero {src : KeySource} {v : Seen} {kb : List Byte} {g : State} (h : KeysFrom src 0 v kb g) :
    kb = [] ∧ g = v.keySide := by
  obtain ⟨rfl, rfl⟩ := Prod.mk.inj (Option.some.inj h)
  exact ⟨rfl, rfl⟩

/-- Further symbols have been taken. -/
theorem Seen.passed_took (v : Seen) (ss₁ ss₂ : List Symbol) (requests : List Word) (g : State) (cnt : Nat)
    (out : List Byte) : (v.passed ss₁ requests g cnt out).took ss₂ = v.passed (ss₁ ++ ss₂) requests g cnt out := by
  simp [Seen.passed, Seen.took, Seen.asked, Seen.keyed, Seen.gave]

theorem frameOf_append (p q : List Byte) : frameOf (p ++ q) = p.map .data ++ frameOf q := by
  rw [frameOf, frameOf, List.map_append, List.append_assoc]

section
variable {src : KeySource} {cnt : Nat} {last : Bool} {symbols : List Symbol} {bytes p q kb : List Byte} {g s : State}

/-- A chunk all of whose bytes are accepted. -/
theorem run_chunk_accepted (hib : bytes ≠ [])
    (hsymbols : ChunkSymbols s.build.chunk bytes last symbols) (h : Supplied src symbols bytes.length kb g s.seen) :
    ∃ t : State, (s.wait (.read src cnt [])).run = (streamOffer src (cnt + bytes.length) last [] t).run ∧
      t.seen = s.seen.passed symbols (keyAsks src s.build.chunk bytes.length) g cnt (xorBytes bytes kb) := by
  have hlen : (xorBytes bytes kb).length = bytes.length := xorBytes_length h.keys.length
  have hsink : List.replicate (xorBytes bytes kb).length .ok <+: s.ports.sink := hlen.symm ▸ h.sink
  obtain ⟨t, hrun, hseen⟩ := run_chunk (cnt := cnt) hib hsymbols h.din h.keys (List.append_nil _).symm hsink
  exact ⟨t, hlen ▸ hrun, hseen⟩

/-- The full chunks of a stream. -/
theorem run_full_chunks (m : Nat) (hc : 1 ≤ s.build.chunk) (hlen : bytes.length = s.build.chunk * m)
    (h : Supplied src (bytes.map .data) bytes.length kb g s.seen) :
    ∃ t : State, (s.wait (.read src cnt [])).run = (t.wait (.read src (cnt + bytes.length) [])).run ∧
      t.seen = s.seen.passed (bytes.map .data) (keyAsks src s.build.chunk bytes.length) g cnt (xorBytes bytes kb) := by
  induction m generalizing cnt bytes kb g s with
  | zero =>
    obtain rfl := List.length_eq_zero_iff.1 hlen
    obtain ⟨rfl, rfl⟩ := h.keys.eq_of_zero
    exact ⟨s, rfl, by rw [List.length_nil, keyAsks_zero]; exact (Seen.passed_nil _ _).symm⟩
  | succ m ih =>
    obtain ⟨p, q, rfl, hp⟩ : ∃ p q, bytes = p ++ q ∧ p.length = s.build.chunk :=
      ⟨_, _, (List.take_append_drop s.build.chunk bytes).symm,
        List.length_take_of_le (hlen ▸ Nat.le_mul_of_pos_right _ m.succ_pos)⟩
    rw [List.length_append, Nat.mul_succ] at hlen
    rw [List.map_append, List.length_append] at h ⊢
    obtain ⟨kb₁, g₁, kb₂, g₂, h₁, rfl, rfl, h₂⟩ := h.split
    obtain ⟨t, hrun, hseen⟩ := run_chunk_accepted (cnt := cnt) (List.ne_nil_of_length_pos (by omega)) (.full hp) h₁
    have hbuild : t.build = s.build := congrArg Seen.build hseen
    have hout : (xorBytes p kb₁).length = p.length := xorBytes_length h₁.keys.length
    obtain ⟨u, hrun', hseen'⟩ := ih (cnt := cnt + p.length) (hbuild ▸ hc) (hbuild ▸ by omega) (hseen ▸ h₂ _ _ _ hout)
    refine ⟨u, ?run, ?seen⟩
    case run => rw [hrun, ← Nat.add_assoc, ← hrun']; rfl
    case seen =>
      rw [hseen', hseen, hbuild, keyAsks_add src hc (Dvd.intro 1 (by omega)), xorBytes_append h₁.keys.length, ← hout]
      exact Seen.passed_passed ..

/-- The rest of a stream behind its full chunks. -/
theorem run_last_chunk (hlen : bytes.length < s.build.chunk)
    (h : Supplied src (frameOf bytes) bytes.length kb g s.seen) :
    ∃ t : State, (s.wait (.read src cnt [])).run = t.rsp .none (cnt + bytes.length) ∧
      t.seen =
        s.seen.passed (frameOf bytes) (keyAsks src s.build.chunk bytes.length) g cnt (xorBytes bytes kb) := by
  obtain rfl | hib := eq_or_ne bytes []
  · obtain ⟨rfl, rfl⟩ := h.keys.eq_of_zero
    refine ⟨s.taking (frameOf []), ?run, ?seen⟩
    case run =>
      rw [run_read_symbol (d := .endFrame) hlen h.din, readSymbol, if_pos rfl]
      exact State.run_idle rfl
    case seen =>
      rw [taking_seen, List.length_nil, keyAsks_zero, ← List.nil_append (frameOf []), ← Seen.passed_took]
      exact congrArg (Seen.took _) (Seen.passed_nil ..).symm
  · obtain ⟨t, hrun, hseen⟩ := run_chunk_accepted (cnt := cnt) hib (.ended hlen) h
    exact ⟨t, hrun.trans (State.run_idle rfl), hseen⟩

/-- A stream of a frame that is supplied completes. -/
theorem run_stream_completes (hc : 1 ≤ s.build.chunk) (h : Supplied src (frameOf bytes) bytes.length kb g s.seen) :
    ∃ t : State, (s.wait (.read src 0 [])).run = t.rsp .none bytes.length ∧
      t.seen = s.seen.passed (frameOf bytes) (keyAsks src s.build.chunk bytes.length) g 0 (xorBytes bytes kb) := by
  obtain ⟨p, q, rfl, hp, hq⟩ : ∃ p q, bytes = p ++ q ∧ p.length = s.build.chunk * (bytes.length / s.build.chunk) ∧
      q.length < s.build.chunk :=
    ⟨_, _, (List.take_append_drop _ bytes).symm, List.length_take_of_le (Nat.mul_div_le _ _), by
      rw [List.length_drop, ← Nat.mod_def]; exact Nat.mod_lt _ hc⟩
  rw [frameOf_append, List.length_append] at h ⊢
  obtain ⟨kb₁, g₁, kb₂, g₂, h₁, rfl, rfl, h₂⟩ := h.split
  obtain ⟨t, hrun, hseen⟩ := run_full_chunks (cnt := 0) _ hc hp h₁
  have hbuild : t.build = s.build := congrArg Seen.build hseen
  have hout : (xorBytes p kb₁).length = p.length := xorBytes_length h₁.keys.length
  obtain ⟨u, hrun', hseen'⟩ := run_last_chunk (cnt := 0 + p.length) (hbuild ▸ hq) (hseen ▸ h₂ _ _ _ hout)
  refine ⟨u, ?run, ?seen⟩
  case run => rw [hrun, hrun', Nat.zero_add]
  case seen =>
    rw [hseen', hseen, hbuild, keyAsks_add src hc (Dvd.intro _ hp.symm), xorBytes_append h₁.keys.length, ← hout]
    exact Seen.passed_passed ..

end

/-! ## A stream that an error cuts short (R199) -/

section
variable {src : KeySource} {last : Bool} {symbols : List Symbol} {p q ib kb : List Byte} {m k : Nat} {g s : State}

/-- An `IoErr` behind full chunks and a part of one. -/
theorem run_stream_ioErr (hc : 1 ≤ s.build.chunk) (hp : p.length = s.build.chunk * m) (hq : q.length < s.build.chunk)
    (h : Supplied src (p.map .data ++ (q.map .data ++ [.ioErr])) p.length kb g s.seen) :
    ∃ t : State, (s.wait (.read src 0 [])).run = t.raise .io ∧
      t.seen =
        s.seen.passed (p.map .data ++ (q.map .data ++ [.ioErr])) (keyAsks src s.build.chunk p.length) g 0
          (xorBytes p kb) := by
  obtain ⟨hdin₁, hdin₂⟩ := append_prefix_iff.1 h.din
  obtain ⟨t, hrun, hseen⟩ := run_full_chunks (cnt := 0) m hc hp ⟨hdin₁, h.sink, h.keys⟩
  have hbuild : t.build = s.build := congrArg Seen.build hseen
  have hdin : t.ports.din = s.ports.din.drop (p.map Symbol.data).length := congrArg Seen.din hseen
  refine ⟨t.taking (q.map .data ++ [.ioErr]), ?run, ?seen⟩
  case run =>
    rw [hrun, run_read_symbol (hbuild ▸ hq) (hdin ▸ hdin₂)]
    exact State.run_idle rfl
  case seen => rw [taking_seen, hseen, Seen.passed_took]

/-- A byte of a chunk behind full ones is refused. -/
theorem run_stream_refused (hc : 1 ≤ s.build.chunk) (hp : p.length = s.build.chunk * m)
    (hsymbols : ChunkSymbols s.build.chunk ib last symbols) (hk : k < ib.length)
    (hdin : p.map .data ++ symbols <+: s.ports.din)
    (hsink : List.replicate (p.length + k) .ok ++ [.ioerr] <+: s.ports.sink)
    (hkeys : KeysFrom src (p.length + ib.length) s.seen kb g) :
    ∃ t : State, (s.wait (.read src 0 [])).run = t.raise .io ∧
      t.seen =
        (s.seen.passed (p.map .data ++ symbols) (keyAsks src s.build.chunk (p.length + ib.length)) g 0
          ((xorBytes (p ++ ib) kb).take (p.length + k))).refused := by
  obtain ⟨hdin₁, hdin₂⟩ := append_prefix_iff.1 hdin
  rw [List.replicate_add, List.append_assoc, append_prefix_iff, List.length_replicate] at hsink
  obtain ⟨hsink₁, hsink₂⟩ := hsink
  obtain ⟨kb₁, g₁, kb₂, g₂, hkeys₁, hkeys₂, rfl, rfl⟩ := hkeys.split
  obtain ⟨t, hrun, hseen⟩ := run_full_chunks (cnt := 0) m hc hp ⟨hdin₁, hsink₁, hkeys₁⟩
  have hbuild : t.build = s.build := congrArg Seen.build hseen
  have hout : (xorBytes p kb₁).length = p.length := xorBytes_length hkeys₁.length
  have hdin : t.ports.din = s.ports.din.drop (p.map Symbol.data).length := congrArg Seen.din hseen
  have hsink : t.ports.sink = s.ports.sink.drop (xorBytes p kb₁).length := congrArg Seen.sink hseen
  rw [← hout, ← hsink, append_prefix_iff, List.length_replicate] at hsink₂
  obtain ⟨haccepted, hrefused⟩ := hsink₂
  have hib : ib ≠ [] := List.ne_nil_of_length_pos (by omega)
  have hlen : (xorBytes ib kb₂).length = ib.length := xorBytes_length hkeys₂.length
  have htake : ((xorBytes ib kb₂).take k).length = k := List.length_take_of_le (by omega)
  obtain ⟨v, rest, hmore⟩ : ∃ v rest, (xorBytes ib kb₂).drop k = v :: rest :=
    List.exists_cons_of_length_pos (by rw [List.length_drop]; omega)
  obtain ⟨u, hrun', hseen'⟩ := run_chunk (s := t) (cnt := 0 + p.length) (out := (xorBytes ib kb₂).take k)
    hib (hbuild ▸ hsymbols) (hdin ▸ hdin₂) (g := g₂) (src := src) (kb := kb₂)
    (by rw [KeysFrom, hseen]; exact hkeys₂) (hmore ▸ (List.take_append_drop k _).symm) (htake.symm ▸ haccepted)
  have husink : u.ports.sink = t.ports.sink.drop ((xorBytes ib kb₂).take k).length := congrArg Seen.sink hseen'
  refine ⟨u.refusing v, ?run, ?seen⟩
  case run => rw [hrun, hrun', run_streamOffer_refused (by rw [husink, htake]; exact hrefused)]
  case seen =>
    rw [refusing_seen, hseen', hseen, hbuild, keyAsks_add src hc (Dvd.intro _ hp.symm), xorBytes_append hkeys₁.length,
      ← hout, List.take_length_add_append]
    exact congrArg Seen.refused (Seen.passed_passed ..)

end

/-! ## A stream that completes was supplied -/

section
variable {src : KeySource}

theorem State.takeDin_taking {s t : State} {d : Symbol} (h : s.takeDin = some (d, t)) :
    [d] <+: s.ports.din ∧ t = s.taking [d] := by
  obtain ⟨rest, hdin, rfl⟩ := State.takeDin_eq_some.1 h
  refine ⟨⟨rest, hdin.symm⟩, ?_⟩
  rw [State.taking, hdin]
  rfl

theorem ChunkSymbols.cons {room : Nat} {bytes : List Byte} {last : Bool} {symbols : List Symbol} (v : Byte)
    (h : ChunkSymbols room bytes last symbols) :
    ChunkSymbols (room + 1) (v :: bytes) last (.data v :: symbols) := by
  cases h with
  | full h => exact .full (congrArg (· + 1) h)
  | ended h => exact .ended (Nat.succ_lt_succ h)

theorem readChunk_ok {room : Nat} {ib ib' : List Byte} {last : Bool} {s t : State}
    (h : Ref.readChunk room ib s = some (.ok (ib', last, t))) :
    ∃ bytes symbols, ib' = ib ++ bytes ∧ ChunkSymbols room bytes last symbols ∧ symbols <+: s.ports.din ∧
      t = s.taking symbols := by
  induction room generalizing ib s with
  | zero =>
    obtain ⟨rfl, hrest⟩ := Prod.mk.inj (Except.ok.inj (Option.some.inj h))
    obtain ⟨rfl, rfl⟩ := Prod.mk.inj hrest
    exact ⟨[], [], (List.append_nil _).symm, .full rfl, List.nil_prefix, rfl⟩
  | succ room ih =>
    obtain ⟨⟨d, u⟩, hd, h⟩ := Option.bind_eq_some_iff.1 h
    obtain ⟨hdin, rfl⟩ := State.takeDin_taking hd
    cases d with
    | ioErr => cases h
    | endFrame =>
      obtain ⟨rfl, hrest⟩ := Prod.mk.inj (Except.ok.inj (Option.some.inj h))
      obtain ⟨rfl, rfl⟩ := Prod.mk.inj hrest
      exact ⟨[], [.endFrame], (List.append_nil _).symm, .ended room.succ_pos, hdin, rfl⟩
    | data v =>
      obtain ⟨bytes, symbols, rfl, hsymbols, hleft, rfl⟩ := ih h
      exact ⟨v :: bytes, .data v :: symbols, List.append_assoc .., hsymbols.cons v,
        append_prefix_iff.2 ⟨hdin, hleft⟩, State.taking_taking ..⟩

theorem readChunk_error {room : Nat} {ib : List Byte} {s t : State} (h : Ref.readChunk room ib s = some (.error t)) :
    t.regs.phase = .fault := by
  induction room generalizing ib s with
  | zero => cases h
  | succ room ih =>
    obtain ⟨⟨d, u⟩, -, h⟩ := Option.bind_eq_some_iff.1 h
    cases d with
    | ioErr => obtain rfl := Except.error.inj (Option.some.inj h); rfl
    | endFrame => cases h
    | data v => exact ih h

theorem writeChunk_ok {out : List Byte} {cnt cnt' : Nat} {s t : State}
    (h : Ref.writeChunk out cnt s = some (.ok (cnt', t))) : List.replicate out.length .ok <+: s.ports.sink := by
  induction out generalizing cnt s with
  | nil => exact List.nil_prefix
  | cons v out ih =>
    obtain ⟨⟨a, u⟩, ha, h⟩ := Option.bind_eq_some_iff.1 h
    obtain ⟨rest, hsink, rfl⟩ := State.takeAnswer_eq_some.1 ha
    cases a with
    | ioerr => cases h
    | ok =>
      obtain ⟨-, -, -, -, hsame, -⟩ := progress_same (cnt + 1)
        { s with ports := { s.ports with sink := rest, trace := .dout v .ok :: s.ports.trace } }
      have hleft := ih h
      rw [hsame] at hleft
      rw [hsink]
      exact (List.prefix_append_right_inj [Answer.ok]).2 hleft

theorem writeChunk_error {out : List Byte} {cnt : Nat} {s t : State}
    (h : Ref.writeChunk out cnt s = some (.error t)) : t.regs.phase = .fault := by
  induction out generalizing cnt s with
  | nil => cases h
  | cons v out ih =>
    obtain ⟨⟨a, u⟩, -, h⟩ := Option.bind_eq_some_iff.1 h
    cases a with
    | ioerr => obtain rfl := Except.error.inj (Option.some.inj h); rfl
    | ok => exact ih h

theorem processChunk_error {ib : List Byte} {cnt : Nat} {s t : State}
    (h : Ref.processChunk src ib cnt s = some (.error t)) : t.regs.phase = .fault := by
  unfold Ref.processChunk at h
  split at h
  · cases h
  · obtain ⟨x, -, h⟩ := Option.bind_eq_some_iff.1 h
    exact writeChunk_error h

theorem processChunk_ok {ib : List Byte} {cnt : Nat} {s : State} {x : Nat × State}
    (h : Ref.processChunk src ib cnt s = some (.ok x)) :
    ∃ kb g, KeysFrom src ib.length s.seen kb g ∧ List.replicate ib.length .ok <+: s.ports.sink := by
  unfold Ref.processChunk at h
  split at h
  · next hib =>
    subst hib
    exact ⟨[], _, keysFrom_zero, List.nil_prefix⟩
  · obtain ⟨⟨kb, u⟩, hfill, h⟩ := Option.bind_eq_some_iff.1 h
    obtain ⟨g, hkeys, rfl⟩ := keysFrom_of_takeKeys ((keyFill_eq ..).symm.trans hfill)
    have hsink := writeChunk_ok h
    rw [xorBytes_length hkeys.length] at hsink
    cases src <;> exact ⟨kb, g, hkeys, hsink⟩

/-- A pass of the chunk loop that does not fault was supplied. -/
theorem streamLoop_supplied {k cnt : Nat} {s t : State} (h : Ref.streamLoop src (k + 1) cnt s = some t)
    (ht : t.regs.phase ≠ .fault) :
    ∃ ib last symbols kb g, ChunkSymbols s.build.chunk ib last symbols ∧
      Supplied src symbols ib.length kb g s.seen := by
  obtain ⟨c, hc, h⟩ := Option.bind_eq_some_iff.1 h
  obtain u | ⟨ib, last, u⟩ := c
  · obtain rfl := Option.some.inj h
    exact absurd (readChunk_error hc) ht
  · obtain ⟨bytes, symbols, rfl, hsymbols, hdin, rfl⟩ := readChunk_ok hc
    obtain ⟨d, hd, h⟩ := Option.bind_eq_some_iff.1 h
    obtain u | x := d
    · obtain rfl := Option.some.inj h
      exact absurd (processChunk_error hd) ht
    · obtain ⟨kb, g, hkeys, hsink⟩ := processChunk_ok hd
      exact ⟨ib, last, symbols, kb, g, hsymbols, hdin, hsink, hkeys⟩

/-- A stream that ends without a fault has come to the `End` of a frame that was supplied. -/
theorem supplied_of_completes {cnt : Nat} {s : State} (hc : 1 ≤ s.build.chunk)
    (hjob : (s.wait (.read src cnt [])).run.job = none)
    (hphase : (s.wait (.read src cnt [])).run.regs.phase ≠ .fault) :
    ∃ bytes kb g, Supplied src (frameOf bytes) bytes.length kb g s.seen := by
  induction hn : s.ports.din.length using Nat.strong_induction_on generalizing cnt s with
  | _ n ih =>
    have hfollows := streamLoop_follows src (n + 1) cnt s hc (hn ▸ n.le_succ)
    obtain ⟨r, hr⟩ : ∃ r, Ref.streamLoop src (n + 1) cnt s = some r :=
      Option.ne_none_iff_exists'.1 fun hnone => hfollows.waits hnone hjob
    obtain ⟨ib, last, symbols, kb, g, hsymbols, h⟩ := streamLoop_supplied hr (hfollows.of_eq_some hr ▸ hphase)
    cases hsymbols with
    | ended hlen => exact ⟨ib, kb, g, h⟩
    | full hlen =>
      obtain ⟨t, hrun, hseen⟩ :=
        run_chunk_accepted (cnt := cnt) (List.ne_nil_of_length_pos (hlen ▸ hc)) (.full hlen) h
      have hbuild : t.build = s.build := congrArg Seen.build hseen
      have hdin : t.ports.din = s.ports.din.drop (ib.map Symbol.data).length := congrArg Seen.din hseen
      have hle : (ib.map Symbol.data).length ≤ s.ports.din.length := h.din.length_le
      rw [List.length_map] at hdin hle
      obtain ⟨bytes, kb', g', h'⟩ := ih t.ports.din.length (by rw [hdin, List.length_drop]; omega) (hbuild ▸ hc)
        (hrun ▸ hjob) (hrun ▸ hphase) rfl
      refine ⟨ib ++ bytes, kb ++ kb', g.keyed g', ?_⟩
      rw [frameOf_append, List.length_append]
      exact h.append (hseen ▸ h') (xorBytes_length h.keys.length)

end

end Sys2Proof.Machine
end

section
/-! PROOFS. The stream commands (spec/44_stream.md R193 to R201). A stream command completes where its frame, its sink
and its keys are supplied, and only there; so each statement about one stream or two is one about their supplies and
about what is seen of them. -/

namespace Sys2Proof.Machine

/-! ## The two commands -/

/-- The stream command with this key source (R193, R194). -/
def KeySource.command : KeySource → Instr
  | .int => .xstream
  | .ext => .xstreamx

section
variable {src : KeySource} {s t : State} {bytes kb : List Byte} {g : State}

theorem exec_command_legal (hl : legalIn src.command s.regs.phase = true) :
    exec src.command s = .next (s.wait (.read src 0 [])).run := by
  cases src with
  | int => exact exec_xstream_producing hl
  | ext => exact exec_xstreamx_unfaulted (ne_fault_of_legalIn hl)

/-- A stream command that does not fault was allowed. -/
theorem exec_command_unfaulted (h : exec src.command s = .next t) (ht : t.regs.phase ≠ .fault) :
    legalIn src.command s.regs.phase = true := by
  have hguarded : guarded src.command (stream src) s = .next t := by cases src <;> exact h
  obtain ⟨hfault, rfl⟩ | ⟨-, -, rfl⟩ | ⟨-, -, -, rfl⟩ | ⟨-, -, hl, -⟩ := guarded_cases hguarded
  · exact absurd hfault ht
  · exact absurd rfl ht
  · exact absurd rfl ht
  · exact hl

/-- What is seen when a stream of `bytes` has completed. -/
def Seen.streamed (src : KeySource) (bytes kb : List Byte) (g : State) (v : Seen) : Seen :=
  (v.passed (frameOf bytes) (keyAsks src v.build.chunk bytes.length) g 0 (xorBytes bytes kb)).answered .none
    bytes.length

/-- A stream command that is supplied completes. -/
theorem exec_command_supplied (hl : legalIn src.command s.regs.phase = true) (hc : 1 ≤ s.build.chunk)
    (h : Supplied src (frameOf bytes) bytes.length kb g s.seen) :
    ∃ t, exec src.command s = .next t ∧ t.job = none ∧ t.seen = s.seen.streamed src bytes kb g := by
  obtain ⟨t, hrun, hseen⟩ := run_stream_completes hc h
  exact ⟨_, (exec_command_legal hl).trans (congrArg _ hrun), rfl, by rw [rsp_seen, hseen]; rfl⟩

/-- A stream command that completes without a fault was allowed and supplied. -/
theorem exec_command_completes (hc : 1 ≤ s.build.chunk) (h : exec src.command s = .next t) (hjob : t.job = none)
    (ht : t.regs.phase ≠ .fault) :
    legalIn src.command s.regs.phase = true ∧ ∃ bytes kb g, Supplied src (frameOf bytes) bytes.length kb g s.seen ∧
      t.seen = s.seen.streamed src bytes kb g := by
  have hl := exec_command_unfaulted h ht
  obtain rfl : (s.wait (.read src 0 [])).run = t := Host.Outcome.next.inj ((exec_command_legal hl).symm.trans h)
  obtain ⟨bytes, kb, g, hs⟩ := supplied_of_completes hc hjob ht
  obtain ⟨u, hu, -, hseen⟩ := exec_command_supplied hl hc hs
  obtain rfl := Host.Outcome.next.inj (h.symm.trans hu)
  exact ⟨hl, bytes, kb, g, hs, hseen⟩

theorem frameOf_prefix_unique {p q : List Byte} {l : List Symbol} (hp : frameOf p <+: l) (hq : frameOf q <+: l) :
    p = q := by
  induction p generalizing q l with
  | nil =>
    obtain ⟨rest, rfl⟩ := hp
    cases q with
    | nil => rfl
    | cons v q => cases (List.cons_prefix_cons.1 hq).1
  | cons v p ih =>
    obtain ⟨rest, rfl⟩ := hp
    cases q with
    | nil => cases (List.cons_prefix_cons.1 hq).1
    | cons w q =>
      obtain ⟨hw, hq⟩ := List.cons_prefix_cons.1 hq
      rw [ih (List.prefix_append _ _) hq, Symbol.data.inj hw]

/-- A stream command of a known frame that completes without a fault. -/
theorem exec_command_frame (hc : 1 ≤ s.build.chunk) (hdin : frameOf bytes <+: s.ports.din)
    (h : exec src.command s = .next t) (hjob : t.job = none) (ht : t.regs.phase ≠ .fault) :
    legalIn src.command s.regs.phase = true ∧ ∃ kb g, Supplied src (frameOf bytes) bytes.length kb g s.seen ∧
      t.seen = s.seen.streamed src bytes kb g := by
  obtain ⟨hl, bytes', kb, g, hs, hseen⟩ := exec_command_completes hc h hjob ht
  obtain rfl := frameOf_prefix_unique hdin hs.din
  exact ⟨hl, kb, g, hs, hseen⟩

end

/-! ## The keys without entropy injection, and from outside -/

theorem takeKeys_without_entropy (n : Nat) {s : State} (hent : s.regs.ent = false) :
    takeKeys .int n s = some (keystream n s.regs, s.withRegs (genStep^[n] s.regs)) := by
  induction n generalizing s with
  | zero => rfl
  | succ n ih =>
    have hent' : (s.withRegs (genStep s.regs)).regs.ent = false := (genStep_ent s.regs).trans hent
    rw [takeKeys, keyFrom, produceByte_without_entropy hent, Option.bind_some, ih hent', keystream_succ]
    rfl

/-- The key source of `ENT = 0` when it has produced `n` bytes (R176). -/
def Seen.generated (n : Nat) (v : Seen) : State := v.keySide.withRegs (genStep^[n] v.regs)

theorem keysFrom_without_entropy (n : Nat) {v : Seen} (hent : v.regs.ent = false) :
    KeysFrom .int n v (keystream n v.regs) (v.generated n) := takeKeys_without_entropy n hent

theorem takeKeys_external (keys : List Byte) {s : State} (h : keys <+: s.ports.kin) :
    takeKeys .ext keys.length s =
      some (keys, { s with ports := { s.ports with
        kin := s.ports.kin.drop keys.length, trace := keys.reverse.map .kin ++ s.ports.trace } }) := by
  induction keys generalizing s with
  | nil => rfl
  | cons v keys ih =>
    obtain ⟨rest, hkin⟩ := h
    have hkin : s.ports.kin = v :: (keys ++ rest) := hkin.symm
    have htake : s.takeKey =
        some (v, { s with ports := { s.ports with kin := keys ++ rest, trace := .kin v :: s.ports.trace } }) :=
      State.takeKey_eq_some.2 ⟨_, hkin, rfl⟩
    rw [List.length_cons, takeKeys, keyFrom, htake, Option.bind_some, ih (List.prefix_append _ _), hkin]
    simp

/-! ## Streams that complete -/

/-- The payload counts modulo 2^24 (R101). -/
theorem respWord_count (n : Nat) : respWord .none n = BitVec.ofNat 32 (n % 16777216) := by
  have hmod : BitVec.ofNat 24 n = BitVec.ofNat 24 (n % 16777216) := by
    apply BitVec.eq_of_toNat_eq
    rw [BitVec.toNat_ofNat, BitVec.toNat_ofNat]
    exact (Nat.mod_mod n _).symm
  have hlt : n % 16777216 < 2 ^ 24 := Nat.mod_lt _ (by decide)
  rw [respWord, hmod, none_code_append_ofNat hlt]

/-- What is seen of a stream, where it is known what it leaves on the ports. -/
theorem Seen.streamed_eq {src : KeySource} {v : Seen} {bytes kb : List Byte} {g : State} {rest : List Symbol}
    {answers : List Answer} (hkb : kb.length = bytes.length) (hdin : v.din = frameOf bytes ++ rest)
    (hsink : v.sink = List.replicate bytes.length .ok ++ answers) :
    v.streamed src bytes kb g =
      { v with
        regs := g.regs, din := rest, sink := answers, kin := g.ports.kin, drw := g.ports.drw
        delivered := v.delivered ++ xorBytes bytes kb
        consumed := v.consumed ++ frameOf bytes
        keyRequests := v.keyRequests ++ keyAsks src v.build.chunk bytes.length
        drawRequests := v.drawRequests ++ g.ports.drawRequests
        events := v.events ++ progressCounts bytes.length
        responses := v.responses ++ [BitVec.ofNat 32 (bytes.length % 16777216)] } := by
  have hdin' : v.din.drop (frameOf bytes).length = rest := by rw [hdin, List.drop_left]
  have hsink' : v.sink.drop bytes.length = answers := by rw [hsink, List.drop_left' List.length_replicate]
  simp only [Seen.streamed, Seen.passed, Seen.took, Seen.asked, Seen.keyed, Seen.gave, Seen.answered, hdin', hsink',
    eventsAfter_zero, xorBytes_length hkb, respWord_count]

/-- Settles O43: with `ENT = 0` the key source needs nothing, so the frame and the sink are all the supply. -/
theorem xstreamXorsTheKeystream : Obligations.XstreamXorsTheKeystream := by
  intro s bytes rest answers hp hent hc hdin hsink
  have hkeys := keysFrom_without_entropy (v := s.seen) bytes.length hent
  obtain ⟨t, ht, hjob, hseen⟩ :=
    exec_command_supplied (src := .int) hp hc ⟨⟨rest, hdin.symm⟩, ⟨answers, hsink.symm⟩, hkeys⟩
  rw [Seen.streamed_eq hkeys.length hdin hsink] at hseen
  exact ⟨t, ht, congrArg Seen.build hseen, hjob, congrArg Seen.regs hseen, State.ports_of_seen hseen,
    congrArg Seen.delivered hseen, congrArg Seen.consumed hseen, congrArg Seen.events hseen,
    congrArg Seen.responses hseen, (congrArg Seen.keyRequests hseen).trans (List.append_nil _),
    (congrArg Seen.drawRequests hseen).trans (List.append_nil _)⟩

/-- The external key source when it has given the bytes `keys`. -/
def Seen.external (keys : List Byte) (v : Seen) : State :=
  { v.keySide with ports := { v.keySide.ports with kin := v.kin.drop keys.length, trace := keys.reverse.map .kin } }

theorem Seen.external_drawRequests (keys : List Byte) (v : Seen) : (v.external keys).ports.drawRequests = [] := by
  simp [Seen.external, Ports.drawRequests]

theorem keysFrom_external {v : Seen} {keys : List Byte} (h : keys <+: v.kin) :
    KeysFrom .ext keys.length v keys (v.external keys) := by
  have hkeys := takeKeys_external (s := v.keySide) keys h
  rw [show v.keySide.ports.trace = [] from rfl, List.append_nil] at hkeys
  exact hkeys

/-- Settles O44: the bytes of `KIN` are the key, and taking them moves no register. -/
theorem xstreamxXorsTheExternalKey : Obligations.XstreamxXorsTheExternalKey := by
  intro s bytes keys rest answers more hp hc hlen hdin hsink hkin
  have hkeys : KeysFrom .ext bytes.length s.seen keys (s.seen.external keys) :=
    hlen ▸ keysFrom_external ⟨more, hkin.symm⟩
  obtain ⟨t, ht, hjob, hseen⟩ :=
    exec_command_supplied (src := .ext) (Phase.unfaulted_iff.2 hp) hc
      ⟨⟨rest, hdin.symm⟩, ⟨answers, hsink.symm⟩, hkeys⟩
  rw [Seen.streamed_eq hkeys.length hdin hsink, Seen.external_drawRequests] at hseen
  have hmore : s.ports.kin.drop keys.length = more := by rw [hkin, List.drop_left]
  exact ⟨t, ht, congrArg Seen.build hseen, hjob, congrArg Seen.regs hseen, hmore ▸ State.ports_of_seen hseen,
    congrArg Seen.delivered hseen, congrArg Seen.keyRequests hseen, congrArg Seen.events hseen,
    congrArg Seen.responses hseen, (congrArg Seen.drawRequests hseen).trans (List.append_nil _)⟩

/-! ## Two streams compared -/

/-- To encrypt is to decrypt (R195). -/
theorem xorBytes_xorBytes {plain kb : List Byte} (h : kb.length = plain.length) :
    xorBytes (xorBytes plain kb) kb = plain := by
  refine List.ext_getElem (by simp [xorBytes, h]) fun i _ _ => ?_
  simp [xorBytes]

/-- Settles O54: the keys do not depend on the frame, so both streams have the same. -/
theorem xstreamTwiceGivesThePlaintext : Obligations.XstreamTwiceGivesThePlaintext := by
  intro s t plain rest hc h hjob ht
  obtain ⟨hl, kb, g, hs, hseen⟩ :=
    exec_command_frame (src := .int) (s := s.withFrames (frameOf plain ++ rest)) hc ⟨rest, rfl⟩ h hjob ht
  have hkb := hs.keys.length
  have hlen : (xorBytes plain kb).length = plain.length := xorBytes_length hkb
  have hs' : Supplied .int (frameOf (xorBytes plain kb)) (xorBytes plain kb).length kb g
      (s.withFrames (frameOf (xorBytes plain kb) ++ rest)).seen := by
    rw [hlen]
    exact ⟨⟨rest, rfl⟩, hs.sink, hs.keys⟩
  obtain ⟨u, hu, hujob, huseen⟩ :=
    exec_command_supplied (src := .int) (s := s.withFrames (frameOf (xorBytes plain kb) ++ rest)) hl hc hs'
  refine ⟨xorBytes plain kb, hlen, congrArg Seen.delivered hseen, u, hu, hujob,
    (congrArg Seen.regs huseen).trans (congrArg Seen.regs hseen).symm, ?_⟩
  exact (congrArg Seen.delivered huseen).trans (congrArg (s.ports.delivered ++ ·) (xorBytes_xorBytes hkb))

/-- Settles O57: neither the supply nor, for the internal source, what is seen of the stream depends on `CHUNK`. -/
theorem chunkIsUnobservableOnXstream : Obligations.ChunkIsUnobservableOnXstream := by
  intro s t c d hc hd h hjob ht
  obtain ⟨hl, bytes, kb, g, hs, hseen⟩ := exec_command_completes (src := .int) (s := s.withChunk c) hc h hjob ht
  have hs' : Supplied .int (frameOf bytes) bytes.length kb g (s.withChunk d).seen := ⟨hs.din, hs.sink, hs.keys⟩
  obtain ⟨u, hu, hujob, huseen⟩ := exec_command_supplied (src := .int) (s := s.withChunk d) hl hd hs'
  have hsame : u.seen = { t.seen with build := u.build } := by
    have hbuild : u.build = (s.withChunk d).build := congrArg Seen.build huseen
    rw [huseen, hseen, hbuild]
    rfl
  exact ⟨u, hu, hujob, congrArg Seen.regs hsame, State.ports_of_seen hsame, congrArg Seen.delivered hsame,
    congrArg Seen.consumed hsame, congrArg Seen.events hsame, congrArg Seen.drawRequests hsame,
    congrArg Seen.responses hsame⟩

theorem keyed_drawRequests (s g : State) :
    (s.keyed g).ports.drawRequests = s.ports.drawRequests ++ g.ports.drawRequests :=
  drawRequestsIn_append g.ports.trace s.ports.trace

/-- Settles O56: the second stream goes on with the keys and the sink where the first has left them. -/
theorem streamsCompose : Obligations.StreamsCompose := by
  intro p q rest s t u hc ht htjob htphase hu hujob huphase
  have hframe : frameOf p <+: frameOf p ++ frameOf q ++ rest := ⟨frameOf q ++ rest, (List.append_assoc ..).symm⟩
  obtain ⟨hl, kb₁, g₁, hs₁, htseen⟩ :=
    exec_command_frame (src := .int) (s := s.withFrames (frameOf p ++ frameOf q ++ rest)) hc hframe ht htjob htphase
  obtain ⟨answers₁, hanswers₁⟩ := hs₁.sink
  rw [Seen.streamed_eq hs₁.keys.length (List.append_assoc ..) hanswers₁.symm] at htseen
  have htdin : t.seen.din = frameOf q ++ rest := congrArg Seen.din htseen
  have htsink : t.seen.sink = answers₁ := congrArg Seen.sink htseen
  have hchunk : 1 ≤ t.build.chunk := (congrArg (·.build.chunk) htseen).symm ▸ hc
  obtain ⟨-, kb₂, g₂, hs₂, huseen⟩ := exec_command_frame (src := .int) hchunk ⟨rest, htdin.symm⟩ hu hujob huphase
  obtain ⟨answers, hanswers⟩ := hs₂.sink
  rw [Seen.streamed_eq hs₂.keys.length htdin hanswers.symm, htseen] at huseen
  have hkeys : KeysFrom .int (p ++ q).length s.seen (kb₁ ++ kb₂) (g₁.keyed g₂) :=
    List.length_append ▸ hs₁.keys.append hs₂.keys (by rw [htseen]; rfl)
  have hsink : s.ports.sink = List.replicate (p ++ q).length .ok ++ answers := by
    rw [List.length_append, List.replicate_add, List.append_assoc, hanswers, htsink]
    exact hanswers₁.symm
  obtain ⟨v, hv, hvjob, hvseen⟩ :=
    exec_command_supplied (src := .int) (s := s.withFrames (frameOf (p ++ q) ++ rest)) hl hc
      ⟨⟨rest, rfl⟩, ⟨answers, hsink.symm⟩, hkeys⟩
  rw [Seen.streamed_eq hkeys.length rfl hsink, xorBytes_append hs₁.keys.length, ← List.append_assoc,
    keyed_drawRequests, ← List.append_assoc] at hvseen
  exact ⟨v, hv, hvjob, (congrArg Seen.regs hvseen).trans (congrArg Seen.regs huseen).symm,
    (congrArg Seen.delivered hvseen).trans (congrArg Seen.delivered huseen).symm,
    (congrArg Seen.drawRequests hvseen).trans (congrArg Seen.drawRequests huseen).symm,
    (congrArg Seen.din hvseen).trans (congrArg Seen.din huseen).symm,
    (congrArg Seen.sink hvseen).trans (congrArg Seen.sink huseen).symm,
    (congrArg Seen.drw hvseen).trans (congrArg Seen.drw huseen).symm⟩

/-! ## Streams that fail (R199) -/

/-- What is seen of a stream that has ended with `E_IO`: the symbols taken and left on `DIN`, the answers left, the key
requests, where the key source has come to, and the `n` bytes delivered. -/
def Seen.failed (v : Seen) (taken rest : List Symbol) (answers : List Answer) (requests : List Word) (g : State)
    (n : Nat) (out : List Byte) : Seen :=
  { v with
    regs := { g.regs with err := .io, phase := .fault }
    din := rest, sink := answers, kin := g.ports.kin, drw := g.ports.drw
    delivered := v.delivered ++ out
    consumed := v.consumed ++ taken
    keyRequests := v.keyRequests ++ requests
    drawRequests := v.drawRequests ++ g.ports.drawRequests
    events := v.events ++ progressCounts n
    responses := v.responses ++ [0x0A000000#32] }

section
variable {v : Seen} {taken rest : List Symbol} {answers : List Answer} {requests : List Word} {g : State}
  {n : Nat} {out : List Byte}

theorem Seen.passed_faulted (hout : out.length = n) (hdin : v.din = taken ++ rest) (hsink : v.sink.drop n = answers) :
    (v.passed taken requests g 0 out).faulted .io = v.failed taken rest answers requests g n out := by
  simp only [Seen.passed, Seen.took, Seen.asked, Seen.keyed, Seen.gave, Seen.faulted, Seen.failed, hout,
    hdin, List.drop_left, hsink, eventsAfter_zero]
  rfl

theorem Seen.refused_faulted (hout : out.length = n) (hdin : v.din = taken ++ rest)
    (hsink : (v.sink.drop n).tail = answers) :
    (v.passed taken requests g 0 out).refused.faulted .io = v.failed taken rest answers requests g n out := by
  simp only [Seen.passed, Seen.took, Seen.asked, Seen.keyed, Seen.gave, Seen.refused, Seen.faulted, Seen.failed, hout,
    hdin, List.drop_left, hsink, eventsAfter_zero]
  rfl

end

section
variable {src : KeySource} {s : State} {bytes kb : List Byte} {g : State} {rest : List Symbol} {answers : List Answer}

/-- A stream command whose frame breaks off: the full chunks have been written, and no key byte was taken for the
rest. -/
theorem exec_command_ioErr (hl : legalIn src.command s.regs.phase = true) (hc : 1 ≤ s.build.chunk) {whole : Nat}
    (hwhole : bytes.length / s.build.chunk * s.build.chunk = whole)
    (hdin : s.ports.din = bytes.map .data ++ .ioErr :: rest)
    (hsink : s.ports.sink = List.replicate whole .ok ++ answers) (hkeys : KeysFrom src whole s.seen kb g) :
    ∃ t, exec src.command s = .next t ∧ t.job = none ∧
      t.seen = s.seen.failed (bytes.map .data ++ [.ioErr]) rest answers (keyAsks src s.build.chunk whole) g
        whole (xorBytes (bytes.take whole) kb) := by
  have hp : (bytes.take whole).length = whole := List.length_take_of_le (hwhole ▸ Nat.div_mul_le_self _ _)
  have hq : (bytes.drop whole).length < s.build.chunk := by
    rw [List.length_drop, ← hwhole, Nat.mul_comm, ← Nat.mod_def]
    exact Nat.mod_lt _ hc
  have hsymbols : bytes.map Symbol.data ++ [Symbol.ioErr] =
      (bytes.take whole).map .data ++ ((bytes.drop whole).map .data ++ [.ioErr]) := by
    rw [← List.append_assoc, ← List.map_append, List.take_append_drop]
  have hdin : s.seen.din = (bytes.map .data ++ [.ioErr]) ++ rest :=
    hdin.trans (List.append_assoc _ [Symbol.ioErr] rest).symm
  have hout : (xorBytes (bytes.take whole) kb).length = whole :=
    (xorBytes_length (hkeys.length.trans hp.symm)).trans hp
  have hleft : s.seen.sink.drop whole = answers := by
    rw [show s.seen.sink = _ from hsink, List.drop_left' List.length_replicate]
  obtain ⟨t, hrun, hseen⟩ := run_stream_ioErr (p := bytes.take whole) (q := bytes.drop whole) hc
    (hp.trans (hwhole.symm.trans (Nat.mul_comm ..))) hq
    ⟨⟨rest, hsymbols ▸ hdin.symm⟩, ⟨answers, hp.symm ▸ hsink.symm⟩, hp.symm ▸ hkeys⟩
  refine ⟨_, (exec_command_legal hl).trans (congrArg _ hrun), rfl, ?_⟩
  rw [raise_seen, hseen, ← hsymbols, hp, Seen.passed_faulted hout hdin hleft]

/-- The symbols of the chunks up to the one that byte `i` is in: full chunks, then that chunk. -/
theorem chunks_through {chunk i : Nat} (hc : 1 ≤ chunk) (hi : i < bytes.length) {reached : Nat}
    (hreached : (i / chunk + 1) * chunk = reached) :
    ∃ p ib last symbols, p.length = chunk * (i / chunk) ∧ ChunkSymbols chunk ib last symbols ∧
      i < p.length + ib.length ∧ p ++ ib = bytes.take reached ∧
      p.map .data ++ symbols = (frameOf bytes).take reached := by
  have hdiv : chunk * (i / chunk) ≤ i := Nat.mul_div_le _ _
  have hsum : chunk * (i / chunk) + chunk = reached := by rw [← hreached, Nat.succ_mul, Nat.mul_comm]
  have hmod : i < chunk * (i / chunk) + chunk := Nat.lt_mul_div_succ i hc
  have hp : (bytes.take (chunk * (i / chunk))).length = chunk * (i / chunk) := List.length_take_of_le (by omega)
  obtain hle | hlt := Nat.lt_or_ge bytes.length reached |>.symm
  · have hib : ((bytes.drop (chunk * (i / chunk))).take chunk).length = chunk :=
      List.length_take_of_le (by rw [List.length_drop]; omega)
    have hbytes : bytes.take (chunk * (i / chunk)) ++ (bytes.drop (chunk * (i / chunk))).take chunk =
        bytes.take reached := by rw [← List.take_add, hsum]
    refine ⟨_, _, _, _, hp, .full hib, by omega, hbytes, ?_⟩
    rw [← List.map_append, hbytes, frameOf, List.take_append_of_le_length (by rwa [List.length_map]), List.map_take]
  · have hib : (bytes.drop (chunk * (i / chunk))).length = bytes.length - chunk * (i / chunk) := List.length_drop
    refine ⟨_, bytes.drop (chunk * (i / chunk)), _, _, hp, .ended (by omega), by omega, ?_, ?_⟩
    · rw [List.take_append_drop, List.take_of_length_le hlt.le]
    · rw [← frameOf_append, List.take_append_drop, List.take_of_length_le]
      simpa [frameOf] using hlt

/-- A stream command whose sink refuses byte `i`: the chunk of that byte has been read and its keys taken. -/
theorem exec_command_refused (hl : legalIn src.command s.regs.phase = true) (hc : 1 ≤ s.build.chunk) {i reached : Nat}
    (hi : i < bytes.length) (hreached : (i / s.build.chunk + 1) * s.build.chunk = reached)
    (hdin : s.ports.din = frameOf bytes ++ rest) (hsink : s.ports.sink = List.replicate i .ok ++ .ioerr :: answers)
    (hkeys : KeysFrom src (bytes.take reached).length s.seen kb g) :
    ∃ t, exec src.command s = .next t ∧ t.job = none ∧
      t.seen = s.seen.failed ((frameOf bytes).take reached) ((frameOf bytes).drop reached ++ rest) answers
        (keyAsks src s.build.chunk (bytes.take reached).length) g i ((xorBytes (bytes.take reached) kb).take i) := by
  obtain ⟨p, ib, last, symbols, hp, hsymbols, hlt, hbytes, hframe⟩ := chunks_through hc hi hreached
  have hadd : p.length + (i - p.length) = i := Nat.add_sub_cancel' (hp ▸ Nat.mul_div_le _ _)
  have hdin : s.seen.din = (frameOf bytes).take reached ++ ((frameOf bytes).drop reached ++ rest) := by
    rw [← List.append_assoc, List.take_append_drop]; exact hdin
  have hsink' : List.replicate i .ok ++ [.ioerr] <+: s.ports.sink :=
    ⟨answers, (List.append_assoc ..).trans hsink.symm⟩
  rw [← hbytes] at hkeys ⊢
  have hout : ((xorBytes (p ++ ib) kb).take i).length = i :=
    List.length_take_of_le (by rw [xorBytes_length hkeys.length, List.length_append]; omega)
  have hleft : (s.seen.sink.drop i).tail = answers := by
    rw [show s.seen.sink = _ from hsink, List.drop_left' List.length_replicate, List.tail_cons]
  obtain ⟨t, hrun, hseen⟩ := run_stream_refused (k := i - p.length) hc hp hsymbols (by omega)
    (hframe ▸ ⟨_, hdin.symm⟩) (hadd.symm ▸ hsink') (List.length_append ▸ hkeys)
  refine ⟨_, (exec_command_legal hl).trans (congrArg _ hrun), rfl, ?_⟩
  rw [raise_seen, hseen, hframe, hadd, List.length_append, Seen.refused_faulted hout hdin hleft]

end

theorem keystream_take {n i : Nat} (h : i ≤ n) (r : Regs) : (keystream n r).take i = keystream i r := by
  rw [keystream, ← List.map_take, List.take_range, Nat.min_eq_left h, keystream]

theorem xorBytes_take (ib kb : List Byte) (i : Nat) :
    (xorBytes ib kb).take i = xorBytes (ib.take i) (kb.take i) := List.take_zipWith

/-- Of a stream without entropy injection, the first bytes do not depend on how many follow. -/
theorem take_xor_keystream {bytes : List Byte} {i k : Nat} (hi : i < bytes.length) (hk : i < k) (r : Regs) :
    (xorBytes (bytes.take k) (keystream (bytes.take k).length r)).take i =
      (xorBytes bytes (keystream bytes.length r)).take i := by
  have hle : i ≤ (bytes.take k).length := by rw [List.length_take]; omega
  rw [xorBytes_take, xorBytes_take, List.take_take, Nat.min_eq_left hk.le, keystream_take hle, keystream_take hi.le]

/-- Settles O45: the two explicit halves are the two failing streams with the keys of `ENT = 0`; and a stream of just
the bytes reached that completes has shown the keys of the failing one. -/
theorem streamFailsAsR199Says : Obligations.StreamFailsAsR199Says := by
  intro s bytes rest hc whole reached
  have hwhole : (bytes.take whole).length = whole := List.length_take_of_le (Nat.div_mul_le_self _ _)
  refine ⟨fun hp hent => ⟨fun answers hdin hsink => ?ioErr, fun i answers hi hdin hsink => ?refused⟩,
    fun c t hcommand => ?compared⟩
  case ioErr =>
    obtain ⟨t, ht, hjob, hseen⟩ :=
      exec_command_ioErr (src := .int) hp hc rfl hdin hsink (keysFrom_without_entropy (v := s.seen) _ hent)
    exact ⟨t, ht, hjob, congrArg Seen.regs hseen, State.ports_of_seen hseen, congrArg Seen.delivered hseen,
      congrArg Seen.events hseen, congrArg Seen.responses hseen⟩
  case refused =>
    have hreached : i < reached i := (Nat.lt_mul_div_succ i hc).trans_eq (Nat.mul_comm ..)
    obtain ⟨t, ht, hjob, hseen⟩ :=
      exec_command_refused (src := .int) (reached := reached i) hp hc hi rfl hdin hsink
        (keysFrom_without_entropy (v := s.seen) _ hent)
    rw [take_xor_keystream hi hreached, List.length_take] at hseen
    exact ⟨t, ht, hjob, congrArg Seen.regs hseen, State.ports_of_seen hseen, congrArg Seen.delivered hseen,
      congrArg Seen.events hseen, congrArg Seen.responses hseen⟩
  case compared =>
    obtain ⟨src, rfl⟩ : ∃ src : KeySource, c = src.command := by
      obtain rfl | rfl := hcommand
      · exact ⟨.int, rfl⟩
      · exact ⟨.ext, rfl⟩
    refine ⟨fun ht htjob htphase => ?ioErr, fun i answers hi ht htjob htphase => ?refused⟩
    case ioErr =>
      obtain ⟨hl, kb, g, hs, htseen⟩ :=
        exec_command_frame (s := s.withFrames (frameOf (bytes.take whole) ++ rest)) hc ⟨rest, rfl⟩ ht htjob htphase
      obtain ⟨answers, hanswers⟩ := hs.sink
      rw [Seen.streamed_eq hs.keys.length rfl hanswers.symm, hwhole] at htseen
      rw [hwhole] at hanswers
      obtain ⟨u, hu, hujob, huseen⟩ := exec_command_ioErr (s := s.withFrames (bytes.map .data ++ .ioErr :: rest))
        hl hc rfl rfl hanswers.symm (hwhole ▸ hs.keys)
      have htregs : t.regs = g.regs := congrArg Seen.regs htseen
      refine ⟨u, hu, hujob, htregs ▸ congrArg Seen.regs huseen, ?_,
        (congrArg Seen.delivered huseen).trans (congrArg Seen.delivered htseen).symm,
        (congrArg Seen.events huseen).trans (congrArg Seen.events htseen).symm,
        (congrArg Seen.keyRequests huseen).trans (congrArg Seen.keyRequests htseen).symm,
        (congrArg Seen.drawRequests huseen).trans (congrArg Seen.drawRequests htseen).symm,
        congrArg Seen.responses huseen⟩
      rw [State.ports_of_seen htseen]
      exact State.ports_of_seen huseen
    case refused =>
      obtain ⟨hl, kb, g, hs, htseen⟩ :=
        exec_command_frame (bytes := bytes.take (reached i))
          (s := (s.withFrames (frameOf (bytes.take (reached i)) ++ rest)).withAnswers
            (List.replicate (min (reached i) bytes.length) Answer.ok ++ answers)) hc ⟨rest, rfl⟩ ht htjob htphase
      rw [Seen.streamed_eq hs.keys.length rfl (by rw [List.length_take]; rfl)] at htseen
      obtain ⟨u, hu, hujob, huseen⟩ :=
        exec_command_refused (reached := reached i) (rest := rest) (answers := answers)
          (s := (s.withFrames (frameOf bytes ++ rest)).withAnswers (List.replicate i .ok ++ .ioerr :: answers))
          hl hc hi rfl rfl rfl hs.keys
      have htregs : t.regs = g.regs := congrArg Seen.regs htseen
      have htdelivered : t.ports.delivered = s.ports.delivered ++ xorBytes (bytes.take (reached i)) kb :=
        congrArg Seen.delivered htseen
      refine ⟨u, hu, hujob, htregs ▸ congrArg Seen.regs huseen, ?_, ?_, congrArg Seen.events huseen,
        (congrArg Seen.keyRequests huseen).trans (congrArg Seen.keyRequests htseen).symm,
        (congrArg Seen.drawRequests huseen).trans (congrArg Seen.drawRequests htseen).symm,
        congrArg Seen.responses huseen⟩
      · rw [State.ports_of_seen htseen]
        exact State.ports_of_seen huseen
      · rw [htdelivered, List.drop_left]
        exact congrArg Seen.delivered huseen

end Sys2Proof.Machine
end

section
/-! PROOFS. What a stream keeps apart (spec/44_stream.md R194, R202), whatever the environment offers: the external
stream leaves the generator alone, and the data bytes reach nothing but the output bytes. -/

namespace Sys2Proof.Machine

/-! ## The external stream and the generator (R194) -/

/-- The build, the registers, the draw answers and the draw requests are the same. -/
structure GeneratorKept (s t : State) : Prop where
  build : t.build = s.build
  regs : t.regs = s.regs
  drw : t.ports.drw = s.ports.drw
  requests : t.ports.drawRequests = s.ports.drawRequests

/-- The waits of `XSTREAMX`. -/
inductive ExternalWait : Job → Prop
  | read (cnt : Nat) (ib : List Byte) : ExternalWait (.read .ext cnt ib)
  | keyIn (cnt : Nat) (last : Bool) (ib kb : List Byte) : ExternalWait (.keyIn cnt last ib kb)
  | write (cnt : Nat) (last : Bool) (v : Byte) (rest : List Byte) : ExternalWait (.write .ext cnt last v rest)

/-- What `XSTREAMX` can come to from `s`: the generator is as it was, or so it was until an `E_IO`. -/
inductive ExternalStream (s : State) : State → Prop
  | kept {t : State} : GeneratorKept s t → (∀ j ∈ t.job, ExternalWait j) → ExternalStream s t
  | failed {t : State} : GeneratorKept s t → ExternalStream s (t.raise .io)

section
variable {s t : State}

/-- An item that is no draw request crosses, and queues other than `DRW` may change. -/
theorem GeneratorKept.cross (h : GeneratorKept s t) {u : State} (x : Item) (hx : drawRequestsIn [x] = [])
    (hbuild : u.build = t.build) (hregs : u.regs = t.regs) (hdrw : u.ports.drw = t.ports.drw)
    (htrace : u.ports.trace = x :: t.ports.trace) : GeneratorKept s u where
  build := hbuild.trans h.build
  regs := hregs.trans h.regs
  drw := hdrw.trans h.drw
  requests := by
    rw [Ports.drawRequests_eq, htrace, ← List.singleton_append, drawRequestsIn_append, hx, List.append_nil]
    exact h.requests

theorem GeneratorKept.takeDin (h : GeneratorKept s t) {d : Symbol} {u : State} (ht : t.takeDin = some (d, u)) :
    GeneratorKept s u := by
  obtain ⟨rest, -, rfl⟩ := State.takeDin_eq_some.1 ht
  exact h.cross (.din d) rfl rfl rfl rfl rfl

theorem GeneratorKept.takeAnswer (h : GeneratorKept s t) {v : Byte} {a : Answer} {u : State}
    (ht : t.takeAnswer v = some (a, u)) : GeneratorKept s u := by
  obtain ⟨rest, -, rfl⟩ := State.takeAnswer_eq_some.1 ht
  exact h.cross (.dout v a) rfl rfl rfl rfl rfl

theorem GeneratorKept.takeKey (h : GeneratorKept s t) {v : Byte} {u : State} (ht : t.takeKey = some (v, u)) :
    GeneratorKept s u := by
  obtain ⟨rest, -, rfl⟩ := State.takeKey_eq_some.1 ht
  exact h.cross (.kin v) rfl rfl rfl rfl rfl

theorem GeneratorKept.progress (h : GeneratorKept s t) (cnt : Nat) : GeneratorKept s (progress cnt t) := by
  unfold Machine.progress
  split
  · exact h.cross (.evt _) rfl rfl rfl rfl rfl
  · exact h

theorem GeneratorKept.wait (h : GeneratorKept s t) {j : Job} (hj : ExternalWait j) : ExternalStream s (t.wait j) :=
  .kept ⟨h.build, h.regs, h.drw, h.requests⟩ fun _ hi => Option.some.inj hi ▸ hj

theorem GeneratorKept.rsp (h : GeneratorKept s t) (cnt : Nat) : ExternalStream s (t.rsp .none cnt) :=
  .kept (h.cross (.rsp _) rfl rfl rfl rfl rfl) nofun

theorem streamOffer_external (h : GeneratorKept s t) (cnt : Nat) (last : Bool) (bytes : List Byte) :
    ExternalStream s (streamOffer .ext cnt last bytes t) := by
  cases bytes with
  | cons v rest => exact h.wait (.write ..)
  | nil =>
    cases last with
    | true => exact h.rsp cnt
    | false => exact h.wait (.read ..)

theorem keyFill_external (h : GeneratorKept s t) (cnt : Nat) (last : Bool) (ib : List Byte) :
    ExternalStream s (keyFill .ext cnt last ib t) :=
  (h.cross (u := t.emit (.krq (keyCountWord ib.length))) (.krq _) rfl rfl rfl rfl rfl).wait (.keyIn ..)

theorem readSymbol_external (h : GeneratorKept s t) (cnt : Nat) (ib : List Byte) (d : Symbol) :
    ExternalStream s (readSymbol .ext cnt ib d t) := by
  cases d with
  | ioErr => exact .failed h
  | endFrame =>
    unfold readSymbol; simp only []; split
    · exact h.rsp cnt
    · exact keyFill_external h _ _ _
  | data v =>
    unfold readSymbol; simp only []; split
    · exact h.wait (.read ..)
    · exact keyFill_external h _ _ _

theorem keyByte_external (h : GeneratorKept s t) (cnt : Nat) (last : Bool) (ib kb : List Byte) (v : Byte) :
    ExternalStream s (keyByte cnt last ib kb v t) := by
  unfold keyByte; split
  · exact h.wait (.keyIn ..)
  · exact streamOffer_external h _ _ _

theorem writeAnswer_external (h : GeneratorKept s t) (cnt : Nat) (last : Bool) (rest : List Byte) (a : Answer) :
    ExternalStream s (writeAnswer .ext cnt last rest a t) := by
  cases a with
  | ioerr => exact .failed h
  | ok => exact streamOffer_external (h.progress _) _ _ _

theorem ExternalStream.advance (h : ExternalStream s t) {j : Job} {u : State} (hj : t.job = some j)
    (ha : advance j t = some u) : ExternalStream s u := by
  cases h with
  | failed h => cases hj
  | kept h hjobs =>
    cases hjobs j hj with
    | read cnt ib =>
      obtain ⟨⟨d, w⟩, ht, rfl⟩ := Option.map_eq_some_iff.1 ha
      exact readSymbol_external (h.takeDin ht) _ _ _
    | keyIn cnt last ib kb =>
      obtain ⟨⟨v, w⟩, ht, rfl⟩ := Option.map_eq_some_iff.1 ha
      exact keyByte_external (h.takeKey ht) _ _ _ _ _
    | write cnt last v rest =>
      obtain ⟨⟨a, w⟩, ht, rfl⟩ := Option.map_eq_some_iff.1 ha
      exact writeAnswer_external (h.takeAnswer ht) _ _ _ _

end

theorem ExternalStream.leaves_generator {s t : State} (h : ExternalStream s t) :
    (t.regs = s.regs ∨ t.regs = { s.regs with err := .io, phase := .fault }) ∧ t.build = s.build ∧
      t.ports.drw = s.ports.drw ∧ t.ports.drawRequests = s.ports.drawRequests := by
  cases h with
  | kept h _ => exact ⟨.inl h.regs, h.build, h.drw, h.requests⟩
  | failed h =>
    exact ⟨.inr (by rw [State.raise_regs, h.regs]), h.build, h.drw, (State.rsp_drawRequests ..).trans h.requests⟩

/-- Settles O46: every wait of `XSTREAMX` is one of the external stream, so no advance comes near the generator. -/
theorem xstreamxLeavesTheGenerator : Obligations.XstreamxLeavesTheGenerator := by
  intro s t hp h
  obtain rfl : (s.wait (.read .ext 0 [])).run = t :=
    Host.Outcome.next.inj ((exec_xstreamx_unfaulted hp).symm.trans h)
  have hstart : GeneratorKept s s := ⟨rfl, rfl, rfl, rfl⟩
  exact (State.run_keeps (ExternalStream s) (fun h hj ha => h.advance hj ha)
    (hstart.wait (.read 0 []))).leaves_generator

/-! ## Streams of other data (R202) -/

/-- The symbol with a fixed data value. -/
def Symbol.valueless : Symbol → Symbol := Symbol.mapData fun _ => 0#8

theorem Symbol.eq_or_data {d d' : Symbol} (h : d.valueless = d'.valueless) :
    d = d' ∨ ∃ v v', d = .data v ∧ d' = .data v' := by
  cases d with
  | data v =>
    cases d' with
    | data v' => exact .inr ⟨v, v', rfl, rfl⟩
    | endFrame | ioErr => cases h
  | endFrame =>
    cases d' with
    | endFrame => exact .inl rfl
    | data | ioErr => cases h
  | ioErr =>
    cases d' with
    | ioErr => exact .inl rfl
    | data | endFrame => cases h

/-- The item with a fixed value where it is a data byte of a stream, read or written. -/
def Item.valueless : Item → Item
  | .din d => .din d.valueless
  | .dout _ a => .dout 0#8 a
  | x => x

/-- The block without the values of the data bytes on `DIN` and on record, and with no command in progress. -/
def State.valueless (s : State) : State where
  build := s.build
  regs := s.regs
  ports := { s.ports with
    din := s.ports.din.map Symbol.valueless, trace := s.ports.trace.map Item.valueless }
  job := none

/-- Two waits of a stream, or two ends, but for the data values in their locals. -/
inductive SameShape : Option Job → Option Job → Prop
  | ended : SameShape none none
  | read (src : KeySource) (cnt : Nat) {ib ib' : List Byte} (h : ib.length = ib'.length) :
      SameShape (some (.read src cnt ib)) (some (.read src cnt ib'))
  | keyIn (cnt : Nat) (last : Bool) {ib ib' : List Byte} (kb : List Byte) (h : ib.length = ib'.length) :
      SameShape (some (.keyIn cnt last ib kb)) (some (.keyIn cnt last ib' kb))
  | draw (p : DrawPoint) (left cnt : Nat) (last : Bool) {ib ib' : List Byte} (kb : List Byte)
      (h : ib.length = ib'.length) :
      SameShape (some (.draw p (.key left cnt last ib kb))) (some (.draw p (.key left cnt last ib' kb)))
  | write (src : KeySource) (cnt : Nat) (last : Bool) (v v' : Byte) {rest rest' : List Byte}
      (h : rest.length = rest'.length) :
      SameShape (some (.write src cnt last v rest)) (some (.write src cnt last v' rest'))

/-- Two blocks in a stream that differ in data values only. -/
structure DataAlike (s t : State) : Prop where
  block : s.valueless = t.valueless
  shape : SameShape s.job t.job

section
variable {s t : State}

theorem regs_eq_of_valueless (h : s.valueless = t.valueless) : s.regs = t.regs :=
  show s.valueless.regs = t.valueless.regs from congrArg State.regs h

theorem withRegs_valueless (h : s.valueless = t.valueless) (f : Regs → Regs) :
    (s.withRegs (f s.regs)).valueless = (t.withRegs (f t.regs)).valueless :=
  congrArg (fun u => u.withRegs (f u.regs)) h

/-- The same item, but for a data value, on both records. -/
theorem emit_valueless (h : s.valueless = t.valueless) {x y : Item} (hxy : x.valueless = y.valueless) :
    (s.emit x).valueless = (t.emit y).valueless := by
  have hemit (x : Item) (s : State) : (s.emit x).valueless = s.valueless.emit x.valueless := rfl
  rw [hemit, hemit, h, hxy]

theorem rsp_dataAlike (h : s.valueless = t.valueless) (e : Err) (p : Nat) : DataAlike (s.rsp e p) (t.rsp e p) :=
  ⟨congrArg (State.rsp e p) h, .ended⟩

theorem raise_dataAlike (h : s.valueless = t.valueless) (c : Err) : DataAlike (s.raise c) (t.raise c) :=
  rsp_dataAlike (withRegs_valueless h fun r => { r with err := c, phase := .fault }) c 0

theorem streamOffer_dataAlike (h : s.valueless = t.valueless) (src : KeySource) (cnt : Nat) (last : Bool)
    {out out' : List Byte} (hlen : out.length = out'.length) :
    DataAlike (streamOffer src cnt last out s) (streamOffer src cnt last out' t) := by
  cases out with
  | nil =>
    obtain rfl : out' = [] := List.length_eq_zero_iff.1 hlen.symm
    cases last with
    | true => exact rsp_dataAlike h _ _
    | false => exact ⟨h, .read src cnt rfl⟩
  | cons v out =>
    cases out' with
    | nil => cases hlen
    | cons v' out' => exact ⟨h, .write src cnt last v v' (Nat.succ.inj hlen)⟩

theorem progress_valueless (h : s.valueless = t.valueless) (cnt : Nat) :
    (progress cnt s).valueless = (progress cnt t).valueless := by
  unfold progress
  split
  · exact emit_valueless h rfl
  · exact h

theorem writeAnswer_dataAlike (h : s.valueless = t.valueless) (src : KeySource) (cnt : Nat) (last : Bool)
    {rest rest' : List Byte} (hlen : rest.length = rest'.length) (a : Answer) :
    DataAlike (writeAnswer src cnt last rest a s) (writeAnswer src cnt last rest' a t) := by
  cases a with
  | ioerr => exact raise_dataAlike h _
  | ok => exact streamOffer_dataAlike (progress_valueless h _) _ _ _ hlen

section
variable {ib ib' : List Byte} (hlen : ib.length = ib'.length)
include hlen

theorem xorBytes_length_congr (kb : List Byte) : (xorBytes ib kb).length = (xorBytes ib' kb).length := by
  rw [xorBytes, xorBytes, List.length_zipWith, List.length_zipWith, hlen]

theorem ask_dataAlike (h : s.valueless = t.valueless) (k : DrawKind) (p : DrawPoint) (left cnt : Nat) (last : Bool)
    (kb : List Byte) :
    DataAlike (s.ask k p (.key left cnt last ib kb)) (t.ask k p (.key left cnt last ib' kb)) :=
  ⟨emit_valueless h rfl, .draw p left cnt last kb hlen⟩

theorem keyBytes_dataAlike (h : s.valueless = t.valueless) (cnt : Nat) (last : Bool) (left : Nat) (kb : List Byte) :
    DataAlike (keyBytes cnt last ib left kb s) (keyBytes cnt last ib' left kb t) := by
  induction left generalizing kb s t with
  | zero => exact streamOffer_dataAlike h _ _ _ (xorBytes_length_congr hlen kb)
  | succ left ih =>
    have hevolved : s.evolved.valueless = t.evolved.valueless :=
      withRegs_valueless h fun r => evolveTimes r.ipb.toNat r
    unfold keyBytes
    rw [regs_eq_of_valueless h, regs_eq_of_valueless hevolved]
    split
    · exact ask_dataAlike hlen hevolved _ _ _ _ _ _
    · exact ih (withRegs_valueless hevolved afterByte) _

theorem finishByte_dataAlike (h : s.valueless = t.valueless) (left cnt : Nat) (last : Bool) (kb : List Byte) :
    DataAlike (finishByte (.key left cnt last ib kb) s) (finishByte (.key left cnt last ib' kb) t) := by
  unfold finishByte
  rw [regs_eq_of_valueless h]
  exact keyBytes_dataAlike hlen (withRegs_valueless h afterByte) _ _ _ _

theorem nextTrial_dataAlike (h : s.valueless = t.valueless) (left cnt : Nat) (last : Bool) (kb : List Byte) (k : Nat) :
    DataAlike (nextTrial (.key left cnt last ib kb) k s) (nextTrial (.key left cnt last ib' kb) k t) := by
  cases k with
  | zero => exact finishByte_dataAlike hlen h _ _ _ _
  | succ k => exact ask_dataAlike hlen h _ _ _ _ _ _

theorem drawAnswer_dataAlike (h : s.valueless = t.valueless) (p : DrawPoint) (left cnt : Nat) (last : Bool)
    (kb : List Byte) (d : Word) :
    DataAlike (drawAnswer p (.key left cnt last ib kb) d s) (drawAnswer p (.key left cnt last ib' kb) d t) := by
  have htrials : s.regs.trials = t.regs.trials := congrArg Regs.trials (regs_eq_of_valueless h)
  cases p with
  | gate2 =>
    unfold drawAnswer; simp only []; split
    · exact ask_dataAlike hlen h _ _ _ _ _ _
    · exact finishByte_dataAlike hlen h _ _ _ _
  | gate1 =>
    unfold drawAnswer; simp only []; split
    · exact ask_dataAlike hlen h _ _ _ _ _ _
    · rw [htrials]; exact nextTrial_dataAlike hlen h _ _ _ _ _
  | flip =>
    unfold drawAnswer; simp only []
    rw [htrials]
    exact nextTrial_dataAlike hlen (withRegs_valueless h (flipCell d)) _ _ _ _ _
  | trial k => exact nextTrial_dataAlike hlen (withRegs_valueless h (trialCell d)) _ _ _ _ _

theorem keyFill_dataAlike (h : s.valueless = t.valueless) (src : KeySource) (cnt : Nat) (last : Bool) :
    DataAlike (keyFill src cnt last ib s) (keyFill src cnt last ib' t) := by
  unfold keyFill
  rw [hlen]
  cases src with
  | int => exact keyBytes_dataAlike hlen h _ _ _ _
  | ext => exact ⟨emit_valueless h rfl, .keyIn cnt last [] hlen⟩

theorem keyByte_dataAlike (h : s.valueless = t.valueless) (cnt : Nat) (last : Bool) (kb : List Byte) (v : Byte) :
    DataAlike (keyByte cnt last ib kb v s) (keyByte cnt last ib' kb v t) := by
  unfold keyByte
  rw [hlen]
  split
  · exact ⟨h, .keyIn cnt last _ hlen⟩
  · exact streamOffer_dataAlike h _ _ _ (xorBytes_length_congr hlen _)

theorem readSymbol_data_dataAlike (h : s.valueless = t.valueless) (src : KeySource) (cnt : Nat) (v v' : Byte) :
    DataAlike (readSymbol src cnt ib (.data v) s) (readSymbol src cnt ib' (.data v') t) := by
  have hchunk : s.build.chunk = t.build.chunk := congrArg (·.build.chunk) h
  have hlen' : (ib ++ [v]).length = (ib' ++ [v']).length := by
    rw [List.length_append, List.length_append, hlen]; rfl
  unfold readSymbol
  simp only [hlen, hchunk]
  split
  · exact ⟨h, .read src cnt hlen'⟩
  · exact keyFill_dataAlike hlen' h _ _ _

theorem readSymbol_dataAlike (h : s.valueless = t.valueless) (src : KeySource) (cnt : Nat) {d d' : Symbol}
    (hd : d.valueless = d'.valueless) :
    DataAlike (readSymbol src cnt ib d s) (readSymbol src cnt ib' d' t) := by
  obtain rfl | ⟨v, v', rfl, rfl⟩ := Symbol.eq_or_data hd
  · cases d with
    | ioErr => exact raise_dataAlike h _
    | endFrame =>
      have hempty : ib = [] ↔ ib' = [] := by rw [← List.length_eq_zero_iff, hlen, List.length_eq_zero_iff]
      unfold readSymbol
      simp only [hempty]
      split
      · exact rsp_dataAlike h _ _
      · exact keyFill_dataAlike hlen h _ _ _
    | data v => exact readSymbol_data_dataAlike hlen h src cnt v v
  · exact readSymbol_data_dataAlike hlen h src cnt v v'

end

/-- Items taken from the same port of both: none, or the same but for a data value. -/
theorem taken_dataAlike {α : Type} {e : α → α} {o o' : Option (α × State)} {f f' : α × State → State}
    (ho : o.map (Prod.map e State.valueless) = o'.map (Prod.map e State.valueless))
    (hf : ∀ a b s t, e a = e b → s.valueless = t.valueless → DataAlike (f (a, s)) (f' (b, t))) :
    (o.map f = none ∧ o'.map f' = none) ∨
      ∃ s t, o.map f = some s ∧ o'.map f' = some t ∧ DataAlike s t := by
  cases o with
  | none =>
    cases o' with
    | none => exact .inl ⟨rfl, rfl⟩
    | some y => cases ho
  | some x =>
    cases o' with
    | none => cases ho
    | some y =>
      obtain ⟨hitem, hstate⟩ := Prod.mk.inj (Option.some.inj ho)
      exact .inr ⟨_, _, rfl, rfl, hf x.1 y.1 x.2 y.2 hitem hstate⟩

theorem takeDin_valueless (s : State) :
    s.takeDin.map (Prod.map Symbol.valueless State.valueless) = s.valueless.takeDin := by
  cases h : s.ports.din <;> simp [State.takeDin, State.valueless, Item.valueless, h]

theorem takeAnswer_valueless (v : Byte) (s : State) :
    (s.takeAnswer v).map (Prod.map id State.valueless) = s.valueless.takeAnswer 0#8 := by
  cases h : s.ports.sink <;> simp [State.takeAnswer, State.valueless, Item.valueless, h]

theorem takeKey_valueless (s : State) : s.takeKey.map (Prod.map id State.valueless) = s.valueless.takeKey := by
  cases h : s.ports.kin <;> simp [State.takeKey, State.valueless, Item.valueless, h]

theorem takeDraw_valueless (s : State) : s.takeDraw.map (Prod.map id State.valueless) = s.valueless.takeDraw := by
  cases h : s.ports.drw <;> simp [State.takeDraw, State.valueless, Item.valueless, h]

theorem advance_dataAlike {i j : Job} (h : s.valueless = t.valueless) (hshape : SameShape (some i) (some j)) :
    (advance i s = none ∧ advance j t = none) ∨
      ∃ s' t', advance i s = some s' ∧ advance j t = some t' ∧ DataAlike s' t' := by
  cases hshape with
  | read src cnt hlen =>
    refine taken_dataAlike ?_ fun d d' s t hd hst => readSymbol_dataAlike hlen hst src cnt hd
    rw [takeDin_valueless, takeDin_valueless, h]
  | keyIn cnt last kb hlen =>
    refine taken_dataAlike (e := id) ?_ fun v v' s t hv hst => ?_
    · rw [takeKey_valueless, takeKey_valueless, h]
    · obtain rfl : v = v' := hv
      exact keyByte_dataAlike hlen hst cnt last kb v
  | draw p left cnt last kb hlen =>
    refine taken_dataAlike (e := id) ?_ fun d d' s t hd hst => ?_
    · rw [takeDraw_valueless, takeDraw_valueless, h]
    · obtain rfl : d = d' := hd
      exact drawAnswer_dataAlike hlen hst p left cnt last kb d
  | write src cnt last v v' hlen =>
    refine taken_dataAlike (e := id) ?_ fun a a' s t ha hst => ?_
    · rw [takeAnswer_valueless, takeAnswer_valueless, h]
    · obtain rfl : a = a' := ha
      exact writeAnswer_dataAlike hst src cnt last hlen a

theorem SameShape.both {o o' : Option Job} (h : SameShape o o') :
    (o = none ∧ o' = none) ∨ ∃ i j, o = some i ∧ o' = some j := by
  cases h with
  | ended => exact .inl ⟨rfl, rfl⟩
  | read | keyIn | draw | write => exact .inr ⟨_, _, rfl, rfl⟩

theorem DataAlike.run (h : DataAlike s t) : DataAlike s.run t.run := by
  refine State.run_lockstep DataAlike (fun s t h => ?_) h
  obtain ⟨hs, ht⟩ | ⟨i, j, hs, ht⟩ := h.shape.both
  · exact .inl ⟨State.run_idle hs, State.run_idle ht⟩
  · obtain ⟨ha, hb⟩ | ⟨s', t', ha, hb, h'⟩ := advance_dataAlike h.block (hs ▸ ht ▸ h.shape)
    · exact .inl ⟨State.run_waiting hs ha, State.run_waiting ht hb⟩
    · exact .inr ⟨i, j, s', t', ⟨hs, ha⟩, ⟨ht, hb⟩, h'⟩

end

/-! ## What streams of other data show -/

section
variable {s t : State}

/-- A view of the record that does not look at data values shows the same. -/
theorem filterMap_valueless {α : Type} {f : Item → Option α} (hf : ∀ x : Item, f x.valueless = f x)
    (h : s.valueless = t.valueless) : s.ports.trace.reverse.filterMap f = t.ports.trace.reverse.filterMap f := by
  have hblind (s : State) : s.valueless.ports.trace.reverse.filterMap f = s.ports.trace.reverse.filterMap f := by
    show (s.ports.trace.map Item.valueless).reverse.filterMap f = _
    rw [← List.map_reverse, List.filterMap_map, funext hf (f := f ∘ Item.valueless)]
  rw [← hblind s, h, hblind t]

/-- As many bytes have been delivered, whatever their values. -/
theorem delivered_length_valueless (h : s.valueless = t.valueless) :
    s.ports.delivered.length = t.ports.delivered.length := by
  have hblind (s : State) : (s.ports.delivered.map fun _ => 0#8) = s.valueless.ports.delivered := by
    rw [Ports.delivered_eq, Ports.delivered_eq]
    show _ = deliveredIn (s.ports.trace.map _)
    induction s.ports.trace with
    | nil => rfl
    | cons x xs ih =>
      rw [List.map_cons, ← List.singleton_append, ← List.singleton_append (l := xs.map _), deliveredIn_append,
        deliveredIn_append, List.map_append, ih]
      cases x with
      | dout v a => cases a <;> rfl
      | cmd | rsp | din | krq | kin | drq | drw | evt => rfl
  rw [← List.length_map (f := fun _ => 0#8), hblind, h, ← hblind, List.length_map]

/-- What blocks that are alike but for data values show. -/
theorem DataAlike.observed (h : DataAlike s t) :
    s.regs = t.regs ∧ (s.job = none ↔ t.job = none) ∧ s.ports.sink = t.ports.sink ∧ s.ports.kin = t.ports.kin ∧
      s.ports.drw = t.ports.drw ∧ s.ports.drawRequests = t.ports.drawRequests ∧
      s.ports.keyRequests = t.ports.keyRequests ∧ s.ports.events = t.ports.events ∧
      s.ports.responses = t.ports.responses ∧ s.ports.delivered.length = t.ports.delivered.length := by
  refine ⟨regs_eq_of_valueless h.block, ?job, congrArg (·.ports.sink) h.block, congrArg (·.ports.kin) h.block,
    congrArg (·.ports.drw) h.block, filterMap_valueless (fun x => by cases x <;> rfl) h.block,
    filterMap_valueless (fun x => by cases x <;> rfl) h.block,
    filterMap_valueless (fun x => by cases x <;> rfl) h.block,
    filterMap_valueless (fun x => by cases x <;> rfl) h.block, delivered_length_valueless h.block⟩
  obtain ⟨hs, ht⟩ | ⟨i, j, hs, ht⟩ := h.shape.both
  · exact iff_of_true hs ht
  · rw [hs, ht]
    exact iff_of_false nofun nofun

end

/-- A guarded command whose body ends alike on blocks that are alike does so itself. -/
theorem guarded_dataAlike {i : Instr} {body : State → State} {s t : State} (h : s.valueless = t.valueless)
    (hbody : DataAlike (body s) (body t)) :
    ∃ s' t', guarded i body s = .next s' ∧ guarded i body t = .next t' ∧ DataAlike s' t' := by
  refine ⟨_, _, rfl, rfl, ?_⟩
  have hdropped : DataAlike s.dropped t.dropped := by
    rw [State.dropped, State.dropped, regs_eq_of_valueless h]
    exact rsp_dataAlike h _ _
  rw [regs_eq_of_valueless h]
  split_ifs
  · exact hdropped
  · exact raise_dataAlike h _
  · exact raise_dataAlike h _
  · exact hbody

theorem mapDin_valueless (f : Byte → Byte) (s : State) : (s.mapDin f).valueless = s.valueless := by
  have hsymbol : Symbol.valueless ∘ Symbol.mapData f = Symbol.valueless := funext fun d => by cases d <;> rfl
  simp only [State.valueless, State.mapDin, List.map_map, hsymbol]

/-- Settles O58: a stream command runs in step on blocks that differ in data values only. -/
theorem keyDoesNotDependOnData : Obligations.KeyDoesNotDependOnData := by
  intro i f s t hi h
  have hblock := mapDin_valueless f s
  obtain ⟨u, t', hu, ht', halike⟩ : ∃ u t', exec i (s.mapDin f) = .next u ∧ exec i s = .next t' ∧ DataAlike u t' := by
    obtain rfl | rfl := hi
    · exact guarded_dataAlike hblock (DataAlike.run ⟨hblock, .read .int 0 rfl⟩)
    · exact guarded_dataAlike hblock (DataAlike.run ⟨hblock, .read .ext 0 rfl⟩)
  obtain rfl := Host.Outcome.next.inj (h.symm.trans ht')
  exact ⟨u, hu, halike.observed⟩

end Sys2Proof.Machine
end

section
/-! PROOFS. The read-back of the grid (spec/45_system_readback.md R209). `RDCELL` looks at its index once, against the grid
length `N`, and either faults or answers the cell at that very index. -/

namespace Sys2Proof.Machine

theorem Phase.active_iff {p : Phase} : p.active = true ↔ p = .seeded ∨ p = .warmed ∨ p = .running := by
  cases p <;> decide

/-- `RDCELL` in a phase whose grid holds a generation: an index within the grid reads the cell there, and any other is
`E_RANGE` (R209). -/
theorem exec_rdcell_when_active {idx : Imm} {s : State} (hp : s.regs.phase.active = true) :
    exec (.rdcell idx) s =
      .next (if idx.toNat ≥ s.regs.n then s.faulted .range
        else s.answered s.regs (BitVec.ofNat 32 (cell s.regs.grid idx.toNat).toNat)) := by
  have hlegal : legalIn (.rdcell idx) s.regs.phase = true := hp
  rw [exec, execRdcell, guarded_runs (ne_fault_of_legalIn hlegal) rfl hlegal, State.raise_eq_faulted,
    State.rsp_eq_answered, none_code_append_ofNat (toNat_lt_payload _)]

/-- Settles O48: the two clauses are the two branches of the comparison with `N`. -/
theorem rdcellReadsOneCell : Obligations.RdcellReadsOneCell := by
  intro idx s hp
  rw [exec_rdcell_when_active (Phase.active_iff.2 hp)]
  refine ⟨fun hin => ?reads, fun hbeyond => ?faults⟩
  case reads => rw [if_neg hin.not_ge]
  case faults => rw [if_pos hbeyond]

end Sys2Proof.Machine
end

section
/-! PROOFS. Faults and the way out of them (spec/60_exceptions.md R236, R240, R243, R250). A command comes to FAULT in
one of two ways: a check refuses it before it has done anything, or the environment fails it midway, by `E_IO` or
`E_SEEDLEN`, when it has written the generator registers and the grid alone. In FAULT a word is a reset, a read-back,
or dropped. -/

namespace Sys2Proof.Machine

/-! ## What a command in progress spares -/

/-- The block has not faulted, and of the registers `r` only the grid, the cursor, `KACC` and `PHASE` have been
written. -/
def Spared (r q : Regs) : Prop :=
  q.phase ≠ .fault ∧ ∃ g c k p, q = { r with grid := g, cur := c, kacc := k, phase := p }

section
variable {r q : Regs} {s : State}

theorem Spared.refl (h : r.phase ≠ .fault) : Spared r r := ⟨h, _, _, _, _, rfl⟩

theorem Spared.unfaulted (h : Spared r q) : q.phase ≠ .fault := h.1

/-- A further write of the four spares the same registers. -/
theorem Spared.write (h : Spared r q) (g : List Bool) (c : Byte) (k : Imm) {p : Phase} (hp : p ≠ .fault) :
    Spared r { q with grid := g, cur := c, kacc := k, phase := p } := by
  obtain ⟨-, _, _, _, _, rfl⟩ := h
  exact ⟨hp, _, _, _, _, rfl⟩

theorem Spared.withGrid (h : Spared r q) (g : List Bool) : Spared r { q with grid := g } := h.write g _ _ h.unfaulted

theorem Spared.evolveTimes (h : Spared r q) (k : Nat) : Spared r (evolveTimes k q) := by
  induction k generalizing q with
  | zero => exact h
  | succ k ih => exact ih (h.write _ _ _ h.unfaulted)

theorem Spared.evolved (h : Spared r s.regs) : Spared r s.evolved.regs := h.evolveTimes _

theorem Spared.produced (h : Spared r s.regs) : Spared r s.produced.regs := h.write _ _ _ nofun

/-! Producing bytes never faults, whatever the draws. -/

theorem Spared.keyBytes (h : Spared r s.regs) (cnt : Nat) (last : Bool) (ib : List Byte) (left : Nat) (kb : List Byte) :
    Spared r (keyBytes cnt last ib left kb s).regs := by
  induction left generalizing kb s with
  | zero => rwa [Machine.keyBytes, streamOffer_regs]
  | succ left ih =>
    unfold Machine.keyBytes; split
    · exact h.evolved
    · exact ih h.evolved.produced _

theorem Spared.finishByte (h : Spared r s.regs) (u : ByteUse) : Spared r (finishByte u s).regs := by
  cases u with
  | genb => exact h.produced
  | fill left cnt => exact h.produced
  | key left cnt last ib kb => exact h.produced.keyBytes _ _ _ _ _

theorem Spared.startByte (h : Spared r s.regs) (u : ByteUse) : Spared r (startByte u s).regs := by
  unfold Machine.startByte; split
  · exact h.evolved
  · exact h.evolved.finishByte u

theorem Spared.nextTrial (h : Spared r s.regs) (u : ByteUse) (left : Nat) : Spared r (nextTrial u left s).regs := by
  cases left with
  | zero => exact h.finishByte u
  | succ left => exact h

theorem Spared.drawAnswer (h : Spared r s.regs) (p : DrawPoint) (u : ByteUse) (d : Word) :
    Spared r (drawAnswer p u d s).regs := by
  cases p with
  | gate2 =>
    unfold Machine.drawAnswer; simp only []; split
    · exact h
    · exact h.finishByte u
  | gate1 =>
    unfold Machine.drawAnswer; simp only []; split
    · exact h
    · exact h.nextTrial u _
  | flip => exact Spared.nextTrial (s := s.withRegs (flipCell d s.regs)) (h.withGrid _) u _
  | trial left => exact Spared.nextTrial (s := s.withRegs (trialCell d s.regs)) (h.withGrid _) u left

theorem Spared.fillNext (h : Spared r s.regs) (left cnt : Nat) : Spared r (fillNext left cnt s).regs := by
  cases left with
  | zero => exact h
  | succ left => exact h.startByte _

theorem Spared.keyFill (h : Spared r s.regs) (src : KeySource) (cnt : Nat) (last : Bool) (ib : List Byte) :
    Spared r (keyFill src cnt last ib s).regs := by
  cases src with
  | int => exact h.keyBytes _ _ _ _ _
  | ext => exact h

end

/-! ## A command that the environment can fail -/

/-- What a command that began with the registers `r` can come to while it talks to the environment. Only `SEEDRAW`
writes another register, `DEGR`, and it does so as it ends. -/
inductive Underway (r : Regs) : State → Prop
  | sparing {t : State} : Spared r t.regs → Underway r t
  | ended {t : State} : t.regs.phase ≠ .fault → t.job = none → Underway r t
  | failed {t : State} {c : Err} : c = .io ∨ c = .seedLen → Spared r t.regs → Underway r (t.raise c)

section
variable {r : Regs} {s : State}

theorem seedRawSymbol_underway (h : Spared r s.regs) (cnt : Nat) (d : Symbol) :
    Underway r (seedRawSymbol cnt d s) := by
  cases d with
  | ioErr => exact .failed (.inl rfl) h
  | endFrame =>
    unfold seedRawSymbol; simp only []; split
    · exact .failed (.inr rfl) h
    · exact .ended nofun rfl
  | data v =>
    unfold seedRawSymbol; simp only []; split
    · exact .sparing (h.withGrid _)
    · exact .sparing h

theorem fillAnswer_underway (h : Spared r s.regs) (left cnt : Nat) (a : Answer) :
    Underway r (fillAnswer left cnt a s) := by
  cases a with
  | ok => exact .sparing (h.fillNext _ _)
  | ioerr => exact .failed (.inl rfl) h

theorem readSymbol_underway (h : Spared r s.regs) (src : KeySource) (cnt : Nat) (ib : List Byte) (d : Symbol) :
    Underway r (readSymbol src cnt ib d s) := by
  cases d with
  | ioErr => exact .failed (.inl rfl) h
  | endFrame =>
    unfold readSymbol; simp only []; split
    · exact .sparing h
    · exact .sparing (h.keyFill _ _ _ _)
  | data v =>
    unfold readSymbol; simp only []; split
    · exact .sparing h
    · exact .sparing (h.keyFill _ _ _ _)

theorem writeAnswer_underway (h : Spared r s.regs) (src : KeySource) (cnt : Nat) (last : Bool) (rest : List Byte)
    (a : Answer) : Underway r (writeAnswer src cnt last rest a s) := by
  cases a with
  | ok => exact .sparing (by rwa [writeAnswer, streamOffer_regs, progress_regs])
  | ioerr => exact .failed (.inl rfl) h

theorem Underway.advance {t : State} {j : Job} (h : Underway r s) (hj : s.job = some j) (ha : advance j s = some t) :
    Underway r t := by
  cases h with
  | ended _ hend => exact absurd (hj.symm.trans hend) nofun
  | failed => cases hj
  | sparing h =>
    obtain ⟨u, hu, -, hr⟩ := advance_advancesTo ha
    rw [← hr] at h
    cases hu with
    | seedRaw cnt d => exact seedRawSymbol_underway h cnt d
    | draw p use d => exact .sparing (h.drawAnswer p use d)
    | fillOut left cnt v a => exact fillAnswer_underway h left cnt a
    | read src cnt ib d => exact readSymbol_underway h src cnt ib d
    | keyIn cnt last ib kb v => exact .sparing (by rwa [keyByte_regs])
    | write src cnt last v rest a => exact writeAnswer_underway h src cnt last rest a

theorem Spared.run (h : Spared r s.regs) : Underway r s.run :=
  State.run_keeps (Underway r) Underway.advance (.sparing h)

end

/-! ## The ways into FAULT (R240) -/

/-- How a command that began in `s` can come to FAULT. -/
inductive Faults (s : State) : State → Prop
  | refused {c : Err} : c ≠ .none → Faults s (s.raise c)
  | failed {t : State} {c : Err} : c = .io ∨ c = .seedLen → Spared s.regs t.regs → Faults s (t.raise c)

/-- If the state has faulted, then in one of these ways. -/
def FaultsOnly (s t : State) : Prop := t.regs.phase = .fault → Faults s t

/-- From a state that has not faulted, the command faults only in one of these ways. -/
def FaultsInOrder (e : State → Host.Outcome State Fault Refusal) : Prop :=
  ∀ s t : State, s.regs.phase ≠ .fault → e s = .next t → FaultsOnly s t

section
variable {s : State}

theorem FaultsOnly.refused {c : Err} (hc : c ≠ .none) : FaultsOnly s (s.raise c) := fun _ => .refused hc

/-- A command that leaves the phase as it is. -/
theorem FaultsOnly.of_phase_eq {t : State} (h : s.regs.phase ≠ .fault) (ht : t.regs.phase = s.regs.phase) :
    FaultsOnly s t := fun hf => absurd (ht.symm.trans hf) h

theorem FaultsOnly.ite {c : Prop} [Decidable c] {t u : State} (ht : c → FaultsOnly s t) (hu : ¬ c → FaultsOnly s u) :
    FaultsOnly s (if c then t else u) := by
  split
  · exact ht ‹_›
  · exact hu ‹_›

theorem Underway.faultsOnly {t : State} (h : Underway s.regs t) : FaultsOnly s t := fun hf => by
  cases h with
  | sparing h => exact absurd hf h.unfaulted
  | ended hp => exact absurd hf hp
  | failed hc h => exact .failed hc h

end

theorem guarded_faultsInOrder {i : Instr} {body : State → State}
    (hb : ∀ s : State, s.regs.phase ≠ .fault → FaultsOnly s (body s)) : FaultsInOrder (guarded i body) := by
  intro s t hp ht
  obtain ⟨hf, -⟩ | ⟨-, -, rfl⟩ | ⟨-, -, -, rfl⟩ | ⟨-, -, -, rfl⟩ := guarded_cases ht
  · exact absurd hf hp
  · exact .refused nofun
  · exact .refused nofun
  · exact hb s hp

/-- The check both seeding commands begin with (R243). -/
theorem validated_faultsInOrder {i : Instr} {body : State → State}
    (hb : ∀ s : State, s.regs.phase ≠ .fault → FaultsOnly s (body s)) : FaultsInOrder (guarded i (validated body)) :=
  guarded_faultsInOrder fun s hp => .ite (fun _ => hb s hp) .refused

theorem readRegister_faultsOnly (num : Imm) {s : State} (hp : s.regs.phase ≠ .fault) :
    FaultsOnly s (readRegister num s) := by
  unfold readRegister
  cases s.register num.toNat with
  | some v => exact .of_phase_eq hp rfl
  | none => exact .ite (fun hf => absurd hf hp) fun _ => .refused nofun

theorem exec_faultsInOrder (i : Instr) : FaultsInOrder (exec i) := by
  cases i with
  | srst => exact fun s t _ h => Host.Outcome.next.inj h ▸ nofun
  | rdreg num =>
    exact fun s t hp h => Host.Outcome.next.inj ((execRdreg_eq num s).symm.trans h) ▸ readRegister_faultsOnly num hp
  | nop | setn | rsclr | setc1 | setc2 | setipb | setwarm | setmode | setxi | mix | reval | revalc =>
    exact guarded_faultsInOrder fun _ hp => .of_phase_eq hp rfl
  | rspush | setdlen | lddig | rdcell =>
    exact guarded_faultsInOrder fun _ hp => .ite (fun _ => .refused nofun) fun _ => .of_phase_eq hp rfl
  | warmup => exact guarded_faultsInOrder fun _ _ => nofun
  | seed => exact validated_faultsInOrder fun _ _ => nofun
  | seedraw =>
    exact validated_faultsInOrder fun s hp =>
      (Spared.run (s := (s.withRegs _).wait _) ((Spared.refl hp).withGrid [])).faultsOnly
  | genb => exact guarded_faultsInOrder fun _ hp => ((Spared.refl hp).startByte _).run.faultsOnly
  | fill => exact guarded_faultsInOrder fun _ hp => ((Spared.refl hp).fillNext _ _).run.faultsOnly
  | xstream | xstreamx =>
    exact guarded_faultsInOrder fun s hp => Underway.faultsOnly (s := s) (Spared.run (s := s.wait _) (.refl hp))

/-- Settles O49: a refusal has changed nothing else, and a command that fails midway has spared the rest. -/
theorem faultSavesOnlyTheCode : Obligations.FaultSavesOnlyTheCode := by
  intro i s t hp h hf
  cases exec_faultsInOrder i s t hp h hf with
  | refused hc => exact ⟨hc, rfl, rfl, SameConfig.refl _, rfl, rfl, fun _ _ => rfl⟩
  | @failed u c hc hspared =>
    obtain ⟨-, g, k, a, p, hu⟩ := hspared
    have hregs : (u.raise c).regs = { s.regs with grid := g, cur := k, kacc := a, err := c, phase := .fault } :=
      congrArg (fun q : Regs => { q with err := c, phase := .fault }) hu
    refine ⟨?code, rfl, rfl, ?config, ?dig, ?degr, fun hio hlen => ?early⟩
    case code => obtain rfl | rfl := hc <;> exact nofun
    case config => rw [hregs]; exact SameConfig.refl _
    case dig => rw [hregs]
    case degr => rw [hregs]
    case early => exact (hc.elim hio hlen).elim

/-! ## The words of FAULT (R250) -/

/-- In FAULT every command but `SRST` and a read of a register is dropped. -/
theorem exec_dropped {i : Instr} {s : State} (hp : s.regs.phase = .fault) (hsrst : i ≠ .srst)
    (hnum : ∀ num, i = .rdreg num → s.register num.toNat = none) : exec i s = .next s.dropped := by
  by_cases hrdreg : ∃ num, i = .rdreg num
  case pos =>
    obtain ⟨num, rfl⟩ := hrdreg
    rw [exec_rdreg_of_unknown (hnum num rfl), if_pos hp]
  case neg => exact exec_in_fault hsrst (not_exists.1 hrdreg) hp

/-- `exec_rdreg_of_register` for a number as the command holds it. -/
theorem exec_rdreg_of_named {s : State} {num : Imm} {v : Nat} (h : s.register num.toNat = some v) :
    exec (.rdreg num) s = .next (s.answered s.regs (s.regs.err.code ++ BitVec.ofNat 24 v)) := by
  have hread := exec_rdreg_of_register num.isLt h
  rwa [BitVec.ofNat_toNat, BitVec.setWidth_eq] at hread

/-- Settles O50: a word that is dropped is none of a command, or of a command other than the two. -/
theorem faultDropsEveryOtherWord : Obligations.FaultDropsEveryOtherWord := by
  intro s w rest hp hr hj hc
  refine ⟨fun hw => ?srst, fun num v hd hv => ?rdreg, fun hw hnum => ?dropped⟩
  case srst => exact step_of_decode hr hj hc (decode_of_encode_eq (i := .srst) hw.symm rfl)
  case rdreg => exact (step_of_decode hr hj hc hd).trans (exec_rdreg_of_named (s := s.accepted w rest) hv)
  case dropped =>
    cases hd : decode w with
    | error e => exact (step_of_decode_error hr hj hc hd).trans (congrArg _ (if_pos hp))
    | ok i =>
      have hsrst : i ≠ .srst := fun hi => hw (encode_of_decode (hi ▸ hd)).symm
      exact (step_of_decode hr hj hc hd).trans
        (exec_dropped (s := s.accepted w rest) hp hsrst fun num hi => hnum num (hi ▸ hd))

/-! ## A configuration that `Validate` refuses (R243) -/

/-- In IDLE the check is the first thing a seeding command does. -/
theorem guarded_validated_refused {i : Instr} {body : State → State} {s : State} (hp : s.regs.phase = .idle)
    (hv : validate s.build s.regs ≠ .none) (hi : i.wellFormed = true) (hl : legalIn i = Phase.isIdle) :
    guarded i (validated body) s = .next (s.faulted (validate s.build s.regs)) := by
  rw [guarded_runs_in_idle hp hi hl, validated, if_neg hv, State.raise_eq_faulted]

/-- Settles O28: both seeding commands stand behind the check, whatever they would go on to do. -/
theorem seedingRefusesBadConfiguration : Obligations.SeedingRefusesBadConfiguration :=
  fun _ hp hv => ⟨guarded_validated_refused hp hv rfl rfl, guarded_validated_refused hp hv rfl rfl⟩

end Sys2Proof.Machine
end

section
/-! PROOFS. What crosses the ports in a command (spec/10_state.md R51, R52; spec/30_encoding.md R101, R104). Every item
that is taken was the next one offered on its port, so the items and what is left of the queues tell each other
(`Crossing`); and while a command goes on, the items are no responses and, with `ENT = 0`, no draws (`Comes`). -/

namespace Sys2Proof.Machine

/-! ## Items that cross as they are offered -/

/-- The block can let the item cross: an input item is the next one offered on its port. -/
def Ports.offers (p : Ports) : Item → Prop
  | .cmd w => p.cmd.head? = some w
  | .din d => p.din.head? = some d
  | .dout _ a => p.sink.head? = some a
  | .kin v => p.kin.head? = some v
  | .drw d => p.drw.head? = some d
  | .rsp _ | .krq _ | .drq _ | .evt _ => True

/-- From the ports `p`, the items of the list, the oldest first, cross one after another, each as it is offered. -/
inductive Crossing (p : Ports) : List Item → Ports → Prop
  | none : Crossing p [] p
  | next {xs : List Item} {q : Ports} (x : Item) : Crossing p xs q → q.offers x → Crossing p (xs ++ [x]) (q.cross x)

/-- The command word that the item takes from `CMD`. -/
def Item.cmdWord : Item → Option Word
  | .cmd w => some w
  | _ => none

/-- The symbol that the item takes from `DIN`. -/
def Item.symbol : Item → Option Symbol
  | .din d => some d
  | _ => none

/-- The sink's answer that the item takes. -/
def Item.answer : Item → Option Answer
  | .dout _ a => some a
  | _ => none

/-- The key byte that the item takes from `KIN`. -/
def Item.keyByte : Item → Option Byte
  | .kin v => some v
  | _ => none

/-- The draw answer that the item takes from `DRW`. -/
def Item.drawAnswer : Item → Option Word
  | .drw d => some d
  | _ => none

section
variable {p q : Ports} {xs : List Item}

theorem Crossing.eq_crossAll (h : Crossing p xs q) : q = xs.foldl Ports.cross p := by
  induction h with
  | none => rfl
  | next x _ _ ih => rw [List.foldl_append, ← ih]; rfl

theorem Crossing.trace (h : Crossing p xs q) : q.trace = xs.reverse ++ p.trace :=
  h.eq_crossAll ▸ Ports.crossAll_trace xs p

theorem Crossing.rst (h : Crossing p xs q) : q.rst = p.rst := h.eq_crossAll ▸ Ports.crossAll_rst xs p

/-- The first `k` of the items can cross without the others. -/
theorem Crossing.take (h : Crossing p xs q) (k : Nat) : Crossing p (xs.take k) ((xs.take k).foldl Ports.cross p) := by
  induction h with
  | none => rw [List.take_nil]; exact .none
  | @next xs q x hq hx ih =>
    obtain hk | hk : k ≤ xs.length ∨ (xs ++ [x]).length ≤ k := by rw [List.length_append, List.length_singleton]; omega
    · rwa [List.take_append_of_le_length hk]
    · rw [List.take_of_length_le hk, ← (hq.next x hx).eq_crossAll]
      exact hq.next x hx

/-- A port's queue is what the items have taken from it, then what is left. One item says it of all of them. -/
theorem Crossing.queue {α : Type} {f : Item → Option α} {queue : Ports → List α} (h : Crossing p xs q)
    (hf : ∀ (q : Ports) (x : Item), q.offers x → queue q = (f x).toList ++ queue (q.cross x)) :
    queue p = xs.filterMap f ++ queue q := by
  induction h with
  | none => rfl
  | @next xs q x _ hx ih =>
    rw [ih, hf q x hx, List.filterMap_append, List.append_assoc]
    cases hfx : f x <;> simp [hfx]

theorem Crossing.cmd (h : Crossing p xs q) : p.cmd = xs.filterMap Item.cmdWord ++ q.cmd :=
  h.queue (queue := Ports.cmd) fun q x hx => by
    cases x with
    | cmd w => exact (List.cons_head?_tail hx).symm
    | _ => rfl

theorem Crossing.din (h : Crossing p xs q) : p.din = xs.filterMap Item.symbol ++ q.din :=
  h.queue (queue := Ports.din) fun q x hx => by
    cases x with
    | din d => exact (List.cons_head?_tail hx).symm
    | _ => rfl

theorem Crossing.sink (h : Crossing p xs q) : p.sink = xs.filterMap Item.answer ++ q.sink :=
  h.queue (queue := Ports.sink) fun q x hx => by
    cases x with
    | dout v a => exact (List.cons_head?_tail hx).symm
    | _ => rfl

theorem Crossing.kin (h : Crossing p xs q) : p.kin = xs.filterMap Item.keyByte ++ q.kin :=
  h.queue (queue := Ports.kin) fun q x hx => by
    cases x with
    | kin v => exact (List.cons_head?_tail hx).symm
    | _ => rfl

theorem Crossing.drw (h : Crossing p xs q) : p.drw = xs.filterMap Item.drawAnswer ++ q.drw :=
  h.queue (queue := Ports.drw) fun q x hx => by
    cases x with
    | drw d => exact (List.cons_head?_tail hx).symm
    | _ => rfl

end

/-! ## A command that goes on, and what it comes to -/

/-- The item may cross while a command goes on: it is no response, and a draw only where `e` allows draws. -/
def Item.midCommand (e : Bool) : Item → Bool
  | .rsp _ => false
  | .drq _ | .drw _ => e
  | .cmd _ | .din _ | .dout _ _ | .krq _ | .kin _ | .evt _ => true

theorem Item.midCommand_mono {a b : Bool} (h : a = true → b = true) {x : Item} (hx : x.midCommand a = true) :
    x.midCommand b = true := by
  cases x with
  | drq | drw => exact h hx
  | _ => exact hx

/-- The command waits for a draw answer. -/
def Job.draws : Job → Bool
  | .draw _ _ => true
  | _ => false

/-- Since the ports were `p`, only items that may cross in the middle of a command have; and `ENT` is set only where `e`
allows draws. -/
structure GoesOn (e : Bool) (p : Ports) (s : State) : Prop where
  ent : s.regs.ent = true → e = true
  items : ∃ xs, Crossing p xs s.ports ∧ ∀ x ∈ xs, x.midCommand e = true

/-- What a command comes to: a wait, for a draw only where `e` allows draws; or its response, after which nothing has
crossed. -/
inductive Comes (e : Bool) (p : Ports) (t : State) : Prop
  | waits {j : Job} : GoesOn e p t → t.job = some j → (j.draws = true → e = true) → Comes e p t
  | ended {xs : List Item} {w : Word} : t.job = none → Crossing p (xs ++ [.rsp w]) t.ports →
      (∀ x ∈ xs, x.midCommand e = true) → Comes e p t

section
variable {e : Bool} {p : Ports} {s : State}

theorem GoesOn.refl (h : s.regs.ent = true → e = true) : GoesOn e s.ports s := ⟨h, [], .none, nofun⟩

theorem GoesOn.withRegs (h : GoesOn e p s) {r : Regs} (hr : r.ent = s.regs.ent) : GoesOn e p (s.withRegs r) :=
  ⟨hr ▸ h.ent, h.items⟩

theorem GoesOn.crossed (h : GoesOn e p s) {t : State} {x : Item} (hr : t.regs = s.regs)
    (ht : t.ports = s.ports.cross x) (ho : s.ports.offers x) (hx : x.midCommand e = true) : GoesOn e p t := by
  obtain ⟨xs, hxs, hmid⟩ := h.items
  refine ⟨hr ▸ h.ent, xs ++ [x], ht ▸ hxs.next x ho, fun y hy => ?_⟩
  obtain hy | hy := List.mem_append.1 hy
  · exact hmid y hy
  · exact List.mem_singleton.1 hy ▸ hx

theorem GoesOn.wait (h : GoesOn e p s) {j : Job} (hj : j.draws = true → e = true) : Comes e p (s.wait j) :=
  .waits ⟨h.ent, h.items⟩ rfl hj

theorem GoesOn.withRegs_wait (h : GoesOn e p s) {r : Regs} {j : Job} (hr : r.ent = s.regs.ent)
    (hj : j.draws = true → e = true) : Comes e p ((s.withRegs r).wait j) := (h.withRegs hr).wait hj

/-- The response, whatever has been written to the registers before it. -/
theorem GoesOn.answers (h : GoesOn e p s) {u : State} (hu : u.ports = s.ports) (c : Err) (v : Nat) :
    Comes e p (u.rsp c v) := by
  obtain ⟨xs, hxs, hmid⟩ := h.items
  exact .ended rfl ((hu ▸ hxs).next (.rsp (respWord c v)) trivial) hmid

theorem GoesOn.rsp (h : GoesOn e p s) (c : Err) (v : Nat) : Comes e p (s.rsp c v) := h.answers rfl c v

theorem GoesOn.raise (h : GoesOn e p s) (c : Err) : Comes e p (s.raise c) :=
  h.answers (u := s.withRegs { s.regs with err := c, phase := .fault }) rfl c 0

theorem GoesOn.dropped (h : GoesOn e p s) : Comes e p s.dropped := h.rsp _ 0

theorem GoesOn.configured (h : GoesOn e p s) (r : Regs) : Comes e p (s.configured r) :=
  h.answers (u := s.withRegs r) rfl .none 0

theorem GoesOn.ask (h : GoesOn e p s) (he : e = true) (k : DrawKind) (q : DrawPoint) (u : ByteUse) :
    Comes e p (s.ask k q u) :=
  (h.crossed (t := s.emit (.drq k)) (x := .drq k) rfl rfl trivial he).wait fun _ => he

/-- A choice between two ways to go on. -/
theorem Comes.ite {c : Prop} [Decidable c] {t u : State} (ht : c → Comes e p t) (hu : ¬ c → Comes e p u) :
    Comes e p (if c then t else u) := by
  split
  · exact ht ‹_›
  · exact hu ‹_›

/-! ## The pieces of a command between two waits -/

theorem GoesOn.evolved (h : GoesOn e p s) : GoesOn e p s.evolved := h.withRegs (evolveTimes_ent _ _)

theorem GoesOn.produced (h : GoesOn e p s) : GoesOn e p s.produced := h.withRegs rfl

theorem seedRawSymbol_comes (h : GoesOn e p s) (cnt : Nat) (d : Symbol) : Comes e p (seedRawSymbol cnt d s) := by
  cases d with
  | ioErr => exact h.raise _
  | endFrame => exact .ite (fun _ => h.raise _) fun _ => h.configured _
  | data v => exact .ite (fun _ => h.withRegs_wait (loadCells_ent v _) nofun) fun _ => h.wait nofun

theorem streamOffer_comes (h : GoesOn e p s) (src : KeySource) (cnt : Nat) (last : Bool) (bytes : List Byte) :
    Comes e p (streamOffer src cnt last bytes s) := by
  cases bytes with
  | cons v rest => exact h.wait nofun
  | nil => exact .ite (fun _ => h.rsp _ cnt) fun _ => h.wait nofun

theorem keyBytes_comes (h : GoesOn e p s) (cnt : Nat) (last : Bool) (ib : List Byte) (left : Nat) (kb : List Byte) :
    Comes e p (keyBytes cnt last ib left kb s) := by
  induction left generalizing kb s with
  | zero => exact streamOffer_comes h _ _ _ _
  | succ left ih => exact .ite (fun hent => h.evolved.ask (h.ent hent) _ _ _) fun _ => ih h.evolved.produced _

theorem finishByte_comes (h : GoesOn e p s) (u : ByteUse) : Comes e p (finishByte u s) := by
  cases u with
  | genb => exact h.produced.rsp _ _
  | fill left cnt => exact h.produced.wait nofun
  | key left cnt last ib kb => exact keyBytes_comes h.produced _ _ _ _ _

theorem startByte_comes (h : GoesOn e p s) (u : ByteUse) : Comes e p (startByte u s) :=
  .ite (fun hent => h.evolved.ask (h.ent hent) _ _ _) fun _ => finishByte_comes h.evolved u

theorem nextTrial_comes (h : GoesOn e p s) (he : e = true) (u : ByteUse) (left : Nat) :
    Comes e p (nextTrial u left s) := by
  cases left with
  | zero => exact finishByte_comes h u
  | succ left => exact h.ask he _ _ _

theorem drawAnswer_comes (h : GoesOn e p s) (he : e = true) (q : DrawPoint) (u : ByteUse) (d : Word) :
    Comes e p (drawAnswer q u d s) := by
  cases q with
  | gate2 => exact .ite (fun _ => h.ask he _ _ _) fun _ => finishByte_comes h u
  | gate1 => exact .ite (fun _ => h.ask he _ _ _) fun _ => nextTrial_comes h he u _
  | flip => exact nextTrial_comes (h.withRegs (flipCell_ent d _)) he u _
  | trial left => exact nextTrial_comes (h.withRegs (trialCell_ent d _)) he u left

theorem fillNext_comes (h : GoesOn e p s) (left cnt : Nat) : Comes e p (fillNext left cnt s) := by
  cases left with
  | zero => exact h.rsp _ cnt
  | succ left => exact startByte_comes h _

theorem fillAnswer_comes (h : GoesOn e p s) (left cnt : Nat) (a : Answer) : Comes e p (fillAnswer left cnt a s) := by
  cases a with
  | ok => exact fillNext_comes h _ _
  | ioerr => exact h.raise _

theorem keyFill_comes (h : GoesOn e p s) (src : KeySource) (cnt : Nat) (last : Bool) (ib : List Byte) :
    Comes e p (keyFill src cnt last ib s) := by
  cases src with
  | int => exact keyBytes_comes h _ _ _ _ _
  | ext =>
    exact (h.crossed (t := s.emit (.krq (keyCountWord ib.length))) (x := .krq _) rfl rfl trivial rfl).wait nofun

theorem readSymbol_comes (h : GoesOn e p s) (src : KeySource) (cnt : Nat) (ib : List Byte) (d : Symbol) :
    Comes e p (readSymbol src cnt ib d s) := by
  cases d with
  | ioErr => exact h.raise _
  | endFrame => exact .ite (fun _ => h.rsp _ cnt) fun _ => keyFill_comes h _ _ _ _
  | data v => exact .ite (fun _ => h.wait nofun) fun _ => keyFill_comes h _ _ _ _

theorem keyByte_comes (h : GoesOn e p s) (cnt : Nat) (last : Bool) (ib kb : List Byte) (v : Byte) :
    Comes e p (keyByte cnt last ib kb v s) := .ite (fun _ => h.wait nofun) fun _ => streamOffer_comes h _ _ _ _

theorem GoesOn.progress (h : GoesOn e p s) (cnt : Nat) : GoesOn e p (progress cnt s) := by
  unfold Machine.progress
  split
  · exact h.crossed (x := .evt _) rfl rfl trivial rfl
  · exact h

theorem writeAnswer_comes (h : GoesOn e p s) (src : KeySource) (cnt : Nat) (last : Bool) (rest : List Byte)
    (a : Answer) : Comes e p (writeAnswer src cnt last rest a s) := by
  cases a with
  | ok => exact streamOffer_comes (h.progress _) _ _ _ _
  | ioerr => exact h.raise _

/-! ## Advances and runs -/

/-- An advance takes the next item offered on the port it waits on, a draw answer only if it waits for one. -/
theorem advance_takesOffered {j : Job} {s t : State} (h : advance j s = some t) :
    ∃ (u : State) (x : Item), AdvancesTo u j t ∧ u.regs = s.regs ∧ u.ports = s.ports.cross x ∧ s.ports.offers x ∧
      x.midCommand j.draws = true := by
  cases j with
  | seedRaw cnt =>
    obtain ⟨⟨d, u⟩, ht, rfl⟩ := Option.map_eq_some_iff.1 h
    obtain ⟨rest, hd, -⟩ := State.takeDin_eq_some.1 ht
    exact ⟨u, .din d, .seedRaw cnt d, State.takeDin_regs ht, State.takeDin_ports ht, congrArg List.head? hd, rfl⟩
  | draw q use =>
    obtain ⟨⟨d, u⟩, ht, rfl⟩ := Option.map_eq_some_iff.1 h
    obtain ⟨rest, hd, -⟩ := State.takeDraw_eq_some.1 ht
    exact ⟨u, .drw d, .draw q use d, State.takeDraw_regs ht, State.takeDraw_ports ht, congrArg List.head? hd, rfl⟩
  | fillOut left cnt v =>
    obtain ⟨⟨a, u⟩, ht, rfl⟩ := Option.map_eq_some_iff.1 h
    obtain ⟨rest, ha, -⟩ := State.takeAnswer_eq_some.1 ht
    exact ⟨u, .dout v a, .fillOut left cnt v a, State.takeAnswer_regs ht, State.takeAnswer_ports ht,
      congrArg List.head? ha, rfl⟩
  | read src cnt ib =>
    obtain ⟨⟨d, u⟩, ht, rfl⟩ := Option.map_eq_some_iff.1 h
    obtain ⟨rest, hd, -⟩ := State.takeDin_eq_some.1 ht
    exact ⟨u, .din d, .read src cnt ib d, State.takeDin_regs ht, State.takeDin_ports ht, congrArg List.head? hd, rfl⟩
  | keyIn cnt last ib kb =>
    obtain ⟨⟨v, u⟩, ht, rfl⟩ := Option.map_eq_some_iff.1 h
    obtain ⟨rest, hv, -⟩ := State.takeKey_eq_some.1 ht
    exact ⟨u, .kin v, .keyIn cnt last ib kb v, State.takeKey_regs ht, State.takeKey_ports ht,
      congrArg List.head? hv, rfl⟩
  | write src cnt last v rest =>
    obtain ⟨⟨a, u⟩, ht, rfl⟩ := Option.map_eq_some_iff.1 h
    obtain ⟨rest', ha, -⟩ := State.takeAnswer_eq_some.1 ht
    exact ⟨u, .dout v a, .write src cnt last v rest a, State.takeAnswer_regs ht, State.takeAnswer_ports ht,
      congrArg List.head? ha, rfl⟩

theorem advance_comes {j : Job} {t : State} (h : GoesOn e p s) (hj : j.draws = true → e = true)
    (ha : advance j s = some t) : Comes e p t := by
  obtain ⟨u, x, hu, hregs, hports, hoffers, hmid⟩ := advance_takesOffered ha
  have hu' : GoesOn e p u := h.crossed hregs hports hoffers (Item.midCommand_mono hj hmid)
  cases hu with
  | seedRaw cnt d => exact seedRawSymbol_comes hu' cnt d
  | draw q use d => exact drawAnswer_comes hu' (hj rfl) q use d
  | fillOut left cnt v a => exact fillAnswer_comes hu' left cnt a
  | read src cnt ib d => exact readSymbol_comes hu' src cnt ib d
  | keyIn cnt last ib kb v => exact keyByte_comes hu' cnt last ib kb v
  | write src cnt last v rest a => exact writeAnswer_comes hu' src cnt last rest a

/-- A run keeps what a command comes to: only one that waits is run. -/
theorem Comes.run (h : Comes e p s) : Comes e p s.run :=
  State.run_keeps (Comes e p)
    (fun ht hj ha => by
      cases ht with
      | waits hgoes hwait hdraws =>
        obtain rfl := Option.some.inj (hwait.symm.trans hj)
        exact advance_comes hgoes hdraws ha
      | ended hend => exact absurd (hj.symm.trans hend) nofun) h

end

/-! ## Commands -/

/-- A command that comes to a wait or to its response, with draws only where they are allowed. -/
def ComesToAnEnd (f : State → Host.Outcome State Fault Refusal) : Prop :=
  ∀ {e : Bool} {p : Ports} {s t : State}, GoesOn e p s → f s = .next t → Comes e p t

theorem guarded_comesToAnEnd {i : Instr} {body : State → State}
    (hb : ∀ {e : Bool} {p : Ports} {s : State}, GoesOn e p s → Comes e p (body s)) : ComesToAnEnd (guarded i body) := by
  intro e p s t h ht
  obtain ⟨-, rfl⟩ | ⟨-, -, rfl⟩ | ⟨-, -, -, rfl⟩ | ⟨-, -, -, rfl⟩ := guarded_cases ht
  · exact h.dropped
  · exact h.raise _
  · exact h.raise _
  · exact hb h

theorem readRegister_comes {e : Bool} {p : Ports} {s : State} (h : GoesOn e p s) (num : Imm) :
    Comes e p (readRegister num s) := by
  unfold readRegister
  cases s.register num.toNat with
  | some v => exact h.rsp _ v
  | none => exact .ite (fun _ => h.dropped) fun _ => h.raise _

theorem exec_comesToAnEnd (i : Instr) : ComesToAnEnd (exec i) := by
  cases i with
  | srst => exact fun {_ _ s _} h ht => Host.Outcome.next.inj ht ▸ h.answers (u := s.cleared) rfl .none 0
  | rdreg num =>
    exact fun {_ _ s _} h ht => Host.Outcome.next.inj ((execRdreg_eq num s).symm.trans ht) ▸ readRegister_comes h num
  | nop | reval | revalc => exact guarded_comesToAnEnd fun h => h.rsp _ _
  | setn | rsclr | setc1 | setc2 | setipb | setwarm | setmode | setxi | mix | warmup =>
    exact guarded_comesToAnEnd fun h => h.configured _
  | rspush | setdlen | lddig => exact guarded_comesToAnEnd fun h => .ite (fun _ => h.raise _) fun _ => h.configured _
  | rdcell => exact guarded_comesToAnEnd fun h => .ite (fun _ => h.raise _) fun _ => h.rsp _ _
  | seed => exact guarded_comesToAnEnd fun h => .ite (fun _ => h.configured _) fun _ => h.raise _
  | seedraw =>
    exact guarded_comesToAnEnd fun {_ _ s} h =>
      .ite (fun _ => (h.withRegs_wait (r := { s.regs with grid := [] }) (j := .seedRaw 0) rfl nofun).run)
        fun _ => h.raise _
  | genb => exact guarded_comesToAnEnd fun h => (startByte_comes h _).run
  | fill len => exact guarded_comesToAnEnd fun h => (fillNext_comes h _ _).run
  | xstream | xstreamx => exact guarded_comesToAnEnd fun h => (h.wait (j := .read _ 0 []) nofun).run

/-- Up to a wait no response crosses, and after a response nothing. -/
theorem Comes.items {e : Bool} {p : Ports} {t : State} (h : Comes e p t) :
    ∃ xs, Crossing p xs t.ports ∧ (∀ x ∈ xs.dropLast, x.midCommand e = true) ∧
      ∀ x ∈ xs, x.midCommand e = true ∨ x.isRsp = true := by
  cases h with
  | waits hgoes =>
    obtain ⟨xs, hxs, hmid⟩ := hgoes.items
    exact ⟨xs, hxs, fun x hx => hmid x (List.mem_of_mem_dropLast hx), fun x hx => .inl (hmid x hx)⟩
  | @ended xs w _ hxs hmid =>
    refine ⟨xs ++ [.rsp w], hxs, by rwa [List.dropLast_concat], fun x hx => ?_⟩
    exact (List.mem_append.1 hx).imp (hmid x) fun hx => by rw [List.mem_singleton.1 hx]; rfl

/-! ## Draws with `ENT = 0` (R176, R274) -/

/-- The draw that the item requests. -/
def Item.drawRequest : Item → Option DrawKind
  | .drq k => some k
  | _ => none

theorem drawRequestsIn_reverse (xs : List Item) : drawRequestsIn xs.reverse = xs.filterMap Item.drawRequest := by
  rw [drawRequestsIn, Ports.drawRequests, List.reverse_reverse]
  rfl

/-- Where draws are not allowed, neither a request nor an answer crosses. -/
theorem Item.no_draw {x : Item} (h : x.midCommand false = true ∨ x.isRsp = true) :
    x.drawAnswer = none ∧ x.drawRequest = none := by
  cases x with
  | drq | drw => obtain h | h := h <;> cases h
  | _ => exact ⟨rfl, rfl⟩

/-- Settles O40: where draws are not allowed, no item that crosses in the command is one. -/
theorem noDrawsWithoutEntropy : Obligations.NoDrawsWithoutEntropy := by
  intro i s t hent h
  have hgoes : GoesOn false s.ports s := .refl fun htrue => hent.symm.trans htrue
  obtain ⟨xs, hxs, -, hitems⟩ := (exec_comesToAnEnd i hgoes h).items
  have hanswers : xs.filterMap Item.drawAnswer = [] :=
    List.filterMap_eq_nil_iff.2 fun x hx => (Item.no_draw (hitems x hx)).1
  have hrequests : xs.filterMap Item.drawRequest = [] :=
    List.filterMap_eq_nil_iff.2 fun x hx => (Item.no_draw (hitems x hx)).2
  refine ⟨?answers, ?requests⟩
  case answers => rw [hxs.drw, hanswers, List.nil_append]
  case requests =>
    rw [Ports.drawRequests_eq, hxs.trace, drawRequestsIn_append, drawRequestsIn_reverse, hrequests, List.append_nil,
      Ports.drawRequests_eq]

end Sys2Proof.Machine
end

section
/-! PROOFS. The two resets (spec/70_reset_and_hazards.md R265, spec/45_system_readback.md R206). The block does the same
whatever the pin will do, so the step that `RST` cuts short is a first part of the step that it would not cut short:
some of its items cross, as they were offered, and then the registers are reset. -/

namespace Sys2Proof.Machine

/-! ## The pin is not looked at while the block proceeds -/

/-- The ports with another `RST` input. -/
def Ports.withRst (x : ResetPin) (p : Ports) : Ports := { p with rst := x }

theorem State.withRst_eq_mapPorts (x : ResetPin) (s : State) : s.withRst x = s.mapPorts (Ports.withRst x) := rfl

theorem Ports.withRst_keepsRecording (x : ResetPin) : KeepsRecording (Ports.withRst x) := fun _ _ => rfl

section
variable (x : ResetPin) (s : State)

theorem takeCmd_withRst : (s.withRst x).takeCmd = s.takeCmd.map (Prod.map id (State.withRst x)) := by
  cases h : s.ports.cmd <;> simp [State.takeCmd, State.withRst, h]

theorem takeDin_withRst : (s.withRst x).takeDin = s.takeDin.map (Prod.map id (State.withRst x)) := by
  cases h : s.ports.din <;> simp [State.takeDin, State.withRst, h]

theorem takeAnswer_withRst (v : Byte) :
    (s.withRst x).takeAnswer v = (s.takeAnswer v).map (Prod.map id (State.withRst x)) := by
  cases h : s.ports.sink <;> simp [State.takeAnswer, State.withRst, h]

theorem takeKey_withRst : (s.withRst x).takeKey = s.takeKey.map (Prod.map id (State.withRst x)) := by
  cases h : s.ports.kin <;> simp [State.takeKey, State.withRst, h]

theorem takeDraw_withRst : (s.withRst x).takeDraw = s.takeDraw.map (Prod.map id (State.withRst x)) := by
  cases h : s.ports.drw <;> simp [State.takeDraw, State.withRst, h]

/-- An item taken from a port, then a piece that does not look at the pin. -/
theorem map_withRst {α : Type} {x : ResetPin} {o o' : Option (α × State)} {f : α → State → State}
    (ho : o' = o.map (Prod.map id (State.withRst x))) (hf : ∀ a s, f a (s.withRst x) = (f a s).withRst x) :
    (o'.map fun t => f t.1 t.2) = (o.map fun t => f t.1 t.2).map (State.withRst x) := by
  subst ho
  cases o with
  | none => rfl
  | some t => exact congrArg some (hf t.1 t.2)

theorem advance_withRst (j : Job) : advance j (s.withRst x) = (advance j s).map (State.withRst x) := by
  have hg := Ports.withRst_keepsRecording x
  cases j with
  | seedRaw cnt => exact map_withRst (takeDin_withRst x s) (seedRawSymbol_mapPorts hg cnt)
  | draw p u => exact map_withRst (takeDraw_withRst x s) (drawAnswer_mapPorts hg p u)
  | fillOut left cnt v => exact map_withRst (takeAnswer_withRst x s v) (fillAnswer_mapPorts hg left cnt)
  | read src cnt ib => exact map_withRst (takeDin_withRst x s) (readSymbol_mapPorts hg src cnt ib)
  | keyIn cnt last ib kb => exact map_withRst (takeKey_withRst x s) (keyByte_mapPorts hg cnt last ib kb)
  | write src cnt last v rest =>
    exact map_withRst (takeAnswer_withRst x s v) (writeAnswer_mapPorts hg src cnt last rest)

theorem run_withRst : (s.withRst x).run = s.run.withRst x := by
  refine State.run_lockstep (fun t u => t = u.withRst x) ?_ rfl
  rintro _ u rfl
  cases hj : u.job with
  | none => exact .inl ⟨State.run_idle hj, State.run_idle hj⟩
  | some j =>
    have hadvance := advance_withRst x u j
    cases ha : advance j u with
    | none => exact .inl ⟨State.run_waiting hj (by rw [hadvance, ha]; rfl), State.run_waiting hj ha⟩
    | some t => exact .inr ⟨j, j, t.withRst x, t, ⟨hj, by rw [hadvance, ha]; rfl⟩, ⟨rfl, ha⟩, rfl⟩

variable {s}

theorem exec_withRst {i : Instr} {t : State} (h : exec i s = .next t) : exec i (s.withRst x) = .next (t.withRst x) := by
  obtain ⟨f, hf, hrun⟩ := exec_opens i
  obtain rfl : t = (f s).run := Host.Outcome.next.inj (h.symm.trans (hrun s))
  rw [hrun, State.withRst_eq_mapPorts, hf.mapPorts (Ports.withRst_keepsRecording x), ← run_withRst]
  rfl

theorem illegalCommand_withRst (s : State) : (s.withRst x).illegalCommand = s.illegalCommand.withRst x :=
  ite_mapPorts (dropped_mapPorts (Ports.withRst_keepsRecording x) s)
    (raise_mapPorts (Ports.withRst_keepsRecording x) _ s)

theorem proceed_withRst {t : State} (h : proceed s = .next t) : proceed (s.withRst x) = .next (t.withRst x) := by
  obtain ⟨j, hj, rfl⟩ | ⟨hj, hc, rfl⟩ | ⟨w, u, i, hj, hc, hd, he⟩ | ⟨w, u, e, hj, hc, hd, rfl⟩ := proceed_cases h
  · simp only [proceed, State.withRst_job, hj, run_withRst]
  · simp only [proceed, State.withRst_job, hj, State.takeCmd, State.withRst_ports_cmd, hc]
  · simp only [proceed, State.withRst_job, hj, takeCmd_withRst, hc, Option.map_some, Prod.map_apply, id_eq, hd,
      exec_withRst x he]
  · simp only [proceed, State.withRst_job, hj, takeCmd_withRst, hc, Option.map_some, Prod.map_apply, id_eq, hd,
      illegalCommand_withRst]

end

/-! ## What crosses in a step -/

/-- No item but the newest is a response. -/
def ResponseIsLast (xs : List Item) : Prop := ∀ w, .rsp w ∉ xs.dropLast

theorem Comes.crosses {e : Bool} {p : Ports} {t : State} (h : Comes e p t) :
    ∃ xs, Crossing p xs t.ports ∧ ResponseIsLast xs := by
  obtain ⟨xs, hxs, hmid, -⟩ := h.items
  exact ⟨xs, hxs, fun w hw => absurd (hmid _ hw) nofun⟩

/-- Proceeding lets items cross as they are offered, and a response only as the last of them. -/
theorem proceed_crossing {s t : State} (h : proceed s = .next t) :
    ∃ xs, Crossing s.ports xs t.ports ∧ ResponseIsLast xs := by
  have hstart (u : State) : GoesOn true u.ports u := .refl fun _ => rfl
  have hword {w : Word} {u : State} (hc : s.takeCmd = some (w, u)) : GoesOn true s.ports u := by
    obtain ⟨rest, hcmd, -⟩ := State.takeCmd_eq_some.1 hc
    exact (hstart s).crossed (x := .cmd w) (State.takeCmd_build_regs hc).2 (State.takeCmd_ports hc)
      (congrArg List.head? hcmd) rfl
  obtain ⟨j, hj, rfl⟩ | ⟨-, -, rfl⟩ | ⟨w, u, i, -, hc, -, he⟩ | ⟨w, u, e, -, hc, -, rfl⟩ := proceed_cases h
  · exact (Comes.run (.waits (hstart s) hj fun _ => rfl)).crosses
  · exact ⟨[], .none, nofun⟩
  · exact (exec_comesToAnEnd i (hword hc) he).crosses
  · exact Comes.crosses (.ite (fun _ => (hword hc).dropped) fun _ => (hword hc).raise _)

/-- Where not all of the items cross, no response does. -/
theorem ResponseIsLast.take {xs : List Item} (h : ResponseIsLast xs) {k : Nat} (hk : k < xs.length) (w : Word) :
    .rsp w ∉ xs.take k := by
  intro hw
  rw [ResponseIsLast, List.dropLast_eq_take] at h
  exact h w ((List.take_sublist_take_left (by omega)).subset hw)

/-! ## A step that `RST` cuts short -/

/-- Items cross in the same way whatever the pin is. -/
theorem Crossing.withRst {p q : Ports} {xs : List Item} (h : Crossing p xs q) (x : ResetPin) :
    Crossing (p.withRst x) xs (q.withRst x) := by
  induction h with
  | none => exact .none
  | @next xs q y _ hy ih =>
    have hcross : (q.cross y).withRst x = (q.withRst x).cross y := by cases y <;> rfl
    have hoffers : (q.withRst x).offers y := by cases y <;> exact hy
    exact hcross ▸ ih.next y hoffers

/-- The record tells which items have crossed. -/
theorem Crossing.crossedTo {p q : Ports} {xs : List Item} (h : Crossing p xs q) : p.crossedTo q = xs := by
  rw [Ports.crossedTo_of_append h.trace, List.reverse_reverse]

/-- An abandoned command has let the first `k` of its items cross. -/
theorem abandoned_crossing {s t : State} {xs : List Item} (h : Crossing s.ports xs t.ports) (k : Nat) :
    Crossing (s.ports.withRst .asserted) (xs.take k) (s.abandoned k t).ports := by
  rw [State.abandoned, h.crossedTo]
  exact (h.withRst .asserted).take k

/-- A step with `RST` asserted after `k` more items. -/
theorem step_of_assertedAfter {s t : State} {k : Nat} (hr : s.ports.rst = .assertedAfter k) (h : proceed s = .next t) :
    step s = .next (s.resetWithin k t) := by
  simp only [step, hr, proceedUntilReset, h]

/-- Settles O51: the step that `RST` would not cut short tells which items cross, and the others stay queued. -/
theorem bothResetsHaveTheSameEffect : Obligations.BothResetsHaveTheSameEffect := by
  intro s
  refine ⟨fun hr => ?pin, rfl, fun k u hr hu => ?within⟩
  case pin => simp only [step, hr]; rfl
  case within =>
    obtain ⟨v, hv, hproceed⟩ : ∃ v, v = u.withRst (.assertedAfter k) ∧ proceed s = .next v := by
      have hback := proceed_withRst s.ports.rst (s := s.withRst .released) hu
      rw [show (s.withRst .released).withRst s.ports.rst = s from rfl, hr] at hback
      exact ⟨_, rfl, hback⟩
    obtain ⟨xs, hxs, hlast⟩ := proceed_crossing hproceed
    have hstep := step_of_assertedAfter hr hproceed
    refine ⟨xs.reverse, by rw [← hxs.trace, hv]; rfl, ?_⟩
    rw [List.length_reverse, ← List.reverse_take, List.reverse_reverse]
    refine ⟨fun hk => ?abandoned, fun hk => ?completed⟩
    case abandoned =>
      have hfirst := abandoned_crossing hxs k
      have hreset : s.resetWithin k v = s.abandoned k v := if_pos (by rwa [hxs.crossedTo])
      exact ⟨s.abandoned k v, by rw [hstep, hreset], rfl, rfl, rfl, hfirst.rst, hfirst.trace,
        fun hlt w hw => hlast.take hlt w (List.mem_reverse.1 hw),
        hfirst.cmd, hfirst.din, hfirst.sink, hfirst.kin, hfirst.drw⟩
    case completed =>
      rw [hstep, State.resetWithin, hxs.crossedTo, if_neg (Nat.not_le.2 hk), hv]
      rfl

end Sys2Proof.Machine
end
